-- ==== Sys2Proof/Word.lean ====
section
/-! DEFINITION. The word types of the block: a byte, the 32-bit bus register (W_REG of 00_scope.md R6) and the
12-bit byte offset of the register window (20_memory.md R60). Every value is unsigned (00_scope.md R10). -/

namespace Sys2Proof

abbrev Byte := BitVec 8

/-- A bus register: W_REG = 32 bits (00_scope.md R6). -/
abbrev Word := BitVec 32

/-- A byte offset into the 4096-byte register window (20_memory.md R60). -/
abbrev Offset := BitVec 12

end Sys2Proof
end

