-- ==== Sys2Proof/Config.lean ====
section
/-! DEFINITION. The implementation parameters of 00_scope.md R6: the values the spec fixes, and the OPEN ones as
constants with no body, so that no proof can learn a value of them. Their well-formedness (00_scope.md R7,
41_hmac.md R121) is put on in Machine/Platform.lean, which is what the machine uses. -/

namespace Sys2Proof

namespace Config

/-- KEY_MAX (00_scope.md R6). -/
abbrev keyMax : Nat := 128

/-- DIGEST_MAX (00_scope.md R6). -/
abbrev digestMax : Nat := 64

/-- DIGITS_MAX, the largest d with 10^d < 2^W_MOD (00_scope.md R6). -/
abbrev digitsMax : Nat := 19

/-- CODE_BYTES (00_scope.md R6). -/
abbrev codeBytes : Nat := 20

end Config

/-- An entry of ALG_TABLE (92_eei_decisions.md D3): L digest bytes, B block bytes. The block itself uses only L;
B is needed inside the primitive (00_scope.md R7). -/
structure AlgDesc where
  L : Nat
  B : Nat
deriving DecidableEq, Repr

/-- The 8-byte HMAC message (40_message_port.md R110). -/
abbrev Message := Vector Byte 8

/-- What the primitive port answers before the length of 41_hmac.md R121(b) is put on: up to DIGEST_MAX bytes, or a
failure code. -/
inductive PortAnswer where
  /-- The digest, in the first L bytes. -/
  | ok (bytes : Vector Byte 64)
  /-- UnderlyingHashFailure with the primitive's own code. -/
  | fail (code : Byte)
deriving DecidableEq, Repr, Inhabited

/-- The response of `hmacFn` (41_hmac.md R121). -/
inductive HashResult where
  | ok (digest : List Byte)
  | fail (code : Byte)
deriving DecidableEq, Repr

/-- The two parameters that give HMAC and GENERATE their meaning: ALG_TABLE and `hmacFn`
(00_scope.md R6). The meanings take it as an argument, so that a test can supply one of its own; the machine runs
on `Machine.platform`. -/
structure Primitive where
  table : BitVec 4 → Option AlgDesc
  hash  : BitVec 4 → List Byte → Message → HashResult

/-- ALG_TABLE entries 3 to 15, OPEN (00_scope.md R6; log 6). Entries 0 to 2 of this constant are not used. -/
opaque Config.extraAlgs : BitVec 4 → Option AlgDesc

/-- DEFAULT_ALG, OPEN (00_scope.md R6; log 5). -/
opaque Config.defaultAlgChoice : BitVec 4

/-- The external HMAC primitive, OPEN (41_hmac.md R121; log 7): a total function of algorithm, key and message alone. -/
opaque Config.hmacPort : BitVec 4 → List Byte → Message → PortAnswer

end Sys2Proof
end

