-- ==== Sys2Proof/Syntax.lean ====
section
/-! DEFINITION. The commands of spec/opcode_table.json, the names of the register map (20_memory.md R62), the host's bus
accesses (20_memory.md R63) and the lines of the host assembly (30_encoding.md R100 to R104). -/

namespace Sys2Proof

/-- The five commands (30_encoding.md R92). A command carries no operand: every operand is an implicit register
(30_encoding.md R91). -/
inductive Instr where
  /-- 0x1, 41_hmac.md R124. -/
  | hmac
  /-- 0x2, 42_truncation_selector.md R141. -/
  | trunc
  /-- 0x3, 43_modulo_formatter.md R161. -/
  | format
  /-- 0x4, 44_sequencer.md R181. -/
  | generate
  /-- 0x5, 44_sequencer.md R190. -/
  | clear
deriving DecidableEq, Repr

/-- A word of the register map (20_memory.md R62); `key k`, `digest k` and `code k` are word k of a buffer. -/
inductive Reg where
  | id | version | ctrl | status | cmd | digits | klen | dlen | counterLo | counterHi | trunc | offset | codeLen
  | key (k : Fin 32)
  | digest (k : Fin 16)
  | code (k : Fin 5)
deriving DecidableEq, Repr

/-- One host bus access, well formed or not (20_memory.md R63): `width` is in bytes. For a write, `v` is the data of a
32-bit access (log 17). -/
inductive BusAccess where
  | read (width : Nat) (off : Offset)
  | write (width : Nat) (off : Offset) (v : Word)
deriving DecidableEq, Repr

/-- NAME of an assembly line (30_encoding.md R100): a register name or a hex offset. -/
inductive Target where
  | name (r : Reg)
  | at (off : Offset)
deriving DecidableEq, Repr

/-- A line of the host assembly (30_encoding.md R100 to R104). DESIGN CHOICE (log 24): `cmd` takes a mnemonic, as R101 defines
it; the `cmd` with a literal word of program P4 (95_test_vectors.md), which no rule defines, is written `wr CMD, word`. -/
inductive AsmLine where
  | wr (t : Target) (v : Word)
  | rd (t : Target)
  | cmd (i : Instr)
  | poll
  | ldkey (bytes : List Byte)
  | ldctr (n : BitVec 64)
  | lddgst (bytes : List Byte)
deriving DecidableEq, Repr

end Sys2Proof
end

