-- ==== Sys2Proof/WellFormed.lean ====
section
/-! DEFINITION. What the spec calls well formed: a configured algorithm (00_scope.md R7), a bus access (20_memory.md R63),
an assembly line (30_encoding.md R103, R104). A command has no operand, so every term of `Instr` is well formed; the
ill-formed COMMAND WORDS are refused by the decoder. -/

namespace Sys2Proof

/-- Every present ALG_TABLE entry must have 20 ≤ L ≤ DIGEST_MAX (00_scope.md R7). -/
def AlgDesc.wellFormed (d : AlgDesc) : Bool := decide (20 ≤ d.L) && decide (d.L ≤ Config.digestMax)

/-- No command has a field that could be out of range (30_encoding.md R91). -/
def Instr.wellFormed : Instr → Bool
  | .hmac | .trunc | .format | .generate | .clear => true

/-- The one bus access that exists: 4 bytes at a multiple of 4 (20_memory.md R63). -/
def BusAccess.wellFormed : BusAccess → Bool
  | .read width off => decide (width = 4) && decide (off.toNat % 4 = 0)
  | .write width off _ => decide (width = 4) && decide (off.toNat % 4 = 0)

/-- `ldkey` takes 1 to 128 bytes (30_encoding.md R103), `lddgst` 1 to 64 (R104). -/
def AsmLine.wellFormed : AsmLine → Bool
  | .wr _ _ | .rd _ | .poll | .ldctr _ => true
  | .cmd i => i.wellFormed
  | .ldkey bytes => decide (1 ≤ bytes.length) && decide (bytes.length ≤ Config.keyMax)
  | .lddgst bytes => decide (1 ≤ bytes.length) && decide (bytes.length ≤ Config.digestMax)

end Sys2Proof
end

