-- ==== Sys2Proof/Decode.lean ====
section
/-! DEFINITION. Command words (30_encoding.md R90 to R94) and the register map as offsets (20_memory.md R62): the decoder,
total on every 32-bit word and refusing by name, and after it the encoder. A command is one 32-bit bus write and has no
layout in bytes (30_encoding.md R90, R95; log 21). -/

namespace Sys2Proof

/-- Why a command word is illegal (30_encoding.md R94). -/
inductive DecodeError where
  /-- Bits 31:4 are not 0. -/
  | reservedBits
  /-- OP is 0x0 or 0x6 to 0xF. -/
  | reservedOpcode (op : BitVec 4)
deriving DecidableEq, Repr

/-- OP, bits 3:0 of format C (30_encoding.md R90). -/
def opField (w : Word) : BitVec 4 := w.extractLsb' 0 4

/-- RSVD, bits 31:4 of format C (30_encoding.md R90). -/
def rsvdField (w : Word) : BitVec 28 := w.extractLsb' 4 28

/-- The opcode map (30_encoding.md R92, R94). -/
def instrOfOpcode (op : BitVec 4) : Option Instr :=
  match op.toNat with
  | 1 => some .hmac
  | 2 => some .trunc
  | 3 => some .format
  | 4 => some .generate
  | 5 => some .clear
  | _ => none

/-- `Decode` of 30_encoding.md R94. -/
def decode (w : Word) : Except DecodeError Instr :=
  if rsvdField w ≠ 0 then .error .reservedBits
  else
    match instrOfOpcode (opField w) with
    | some i => .ok i
    | none => .error (.reservedOpcode (opField w))

/-- OP of each command (30_encoding.md R92). -/
def opcodeOf : Instr → BitVec 4
  | .hmac => 0x1
  | .trunc => 0x2
  | .format => 0x3
  | .generate => 0x4
  | .clear => 0x5

/-- The command word: RSVD = 0, then OP (30_encoding.md R90). -/
def encode (i : Instr) : Word := (0 : BitVec 28) ++ opcodeOf i

/-- The decoder on a word numbered as spec/opcode_table.json numbers it: one 32-bit word, so bit k is bit k. Bits above
`nbits` are 0, and a row of more than 32 bits is no command. -/
def decodeTableWord (nbits w : Nat) : Option Instr :=
  if nbits ≤ 32 then
    match decode (BitVec.ofNat 32 (w % 2 ^ nbits)) with
    | .ok i => some i
    | .error _ => none
  else none

/-- The offset column of the register map (20_memory.md R62). -/
def Reg.off : Reg → Offset
  | .id => 0x000
  | .version => 0x004
  | .ctrl => 0x008
  | .status => 0x00C
  | .cmd => 0x010
  | .digits => 0x014
  | .klen => 0x018
  | .dlen => 0x01C
  | .counterLo => 0x020
  | .counterHi => 0x024
  | .trunc => 0x028
  | .offset => 0x02C
  | .codeLen => 0x030
  | .key k => BitVec.ofNat 12 (0x100 + 4 * k.val)
  | .digest k => BitVec.ofNat 12 (0x200 + 4 * k.val)
  | .code k => BitVec.ofNat 12 (0x300 + 4 * k.val)

/-- The fixed registers of the map by word number, offset / 4 (20_memory.md R62). -/
def fixedReg : Nat → Option Reg
  | 0 => some .id
  | 1 => some .version
  | 2 => some .ctrl
  | 3 => some .status
  | 4 => some .cmd
  | 5 => some .digits
  | 6 => some .klen
  | 7 => some .dlen
  | 8 => some .counterLo
  | 9 => some .counterHi
  | 10 => some .trunc
  | 11 => some .offset
  | 12 => some .codeLen
  | _ => none

/-- Which register an aligned offset names, or none for an unmapped one (20_memory.md R62). -/
def regAt (off : Offset) : Option Reg :=
  if off.toNat % 4 ≠ 0 then none
  else
    let word := off.toNat / 4
    if h : 64 ≤ word ∧ word < 96 then some (.key ⟨word - 64, by omega⟩)
    else if h : 128 ≤ word ∧ word < 144 then some (.digest ⟨word - 128, by omega⟩)
    else if h : 192 ≤ word ∧ word < 197 then some (.code ⟨word - 192, by omega⟩)
    else fixedReg word

/-- Bits [31-8j : 24-8j] of a word: big-endian byte lane j (20_memory.md R67). -/
def byteLane (v : Word) (j : Nat) : Byte := v.extractLsb' (24 - 8 * j) 8

/-- The word whose lanes 0 to 3 are these bytes (20_memory.md R67). -/
def wordOfLanes (b0 b1 b2 b3 : Byte) : Word := b0 ++ b1 ++ b2 ++ b3

end Sys2Proof
end

