-- ==== Sys2Proof/Machine/Platform.lean ====
section
/-! DEFINITION. The OPEN parameters of 00_scope.md R6 in the form the spec allows them: every value these definitions can
take is a well-formed configuration, and every well-formed configuration is a value of them. -/

namespace Sys2Proof.Machine

/-- ALG_TABLE (00_scope.md R7, 92_eei_decisions.md D3): entries 0 to 2 are fixed; an entry 3 to 15 is present only when
the configuration gives one and it is well formed (log 6). -/
def algTable (alg : BitVec 4) : Option AlgDesc :=
  match alg.toNat with
  | 0 => some { L := 20, B := 64 }
  | 1 => some { L := 32, B := 64 }
  | 2 => some { L := 64, B := 128 }
  | _ => (Config.extraAlgs alg).filter AlgDesc.wellFormed

/-- DEFAULT_ALG, one present ALG_TABLE index (00_scope.md R6; log 5): the configured choice where that entry is present. -/
def defaultAlg : BitVec 4 :=
  if (algTable Config.defaultAlgChoice).isSome then Config.defaultAlgChoice else 0

/-- The digest length of an algorithm, 0 where the entry is absent (the primitive is then not called,
41_hmac.md R121(c)). -/
def digestLen (alg : BitVec 4) : Nat :=
  match algTable alg with
  | some d => d.L
  | none => 0

/-- `hmacFn` (41_hmac.md R121): an Ok result has exactly ALG_TABLE[alg].L bytes (R121(b); log 7). -/
def hmacFn (alg : BitVec 4) (key : List Byte) (msg : Message) : HashResult :=
  match Config.hmacPort alg key msg with
  | .ok bytes => .ok (bytes.toList.take (digestLen alg))
  | .fail c => .fail c

/-- The parameters this machine runs on. -/
def platform : Primitive := { table := algTable, hash := hmacFn }

end Sys2Proof.Machine
end

