-- ==== Sys2Proof/Machine/State.lean ====
section
/-! DEFINITION. The state of the block (10_state.md R20: "exactly this"), its reset values (10_state.md R40) and the
reasons a step can stop. INVENTORY.md lists every field with its rule. Two fields are the model's own and no state of the
block: `inputs`, what happens next at the block's ports, and `responses`, what the host's accesses answered. -/

namespace Sys2Proof.Machine

/-- PHASE (10_state.md R37); STATUS.BUSY is 1 exactly when it is `busy`. -/
inductive Phase where
  | idle
  | busy
deriving DecidableEq, Repr

/-- What a host bus access answers (20_memory.md R63 to R65). -/
inductive Response where
  /-- A read's 32-bit value. -/
  | data (v : Word)
  /-- A write that was let through to R65 (which may have ignored it). -/
  | ok
  /-- The bus error of 20_memory.md R63 and 60_exceptions.md R207. -/
  | busError
deriving DecidableEq, Repr

/-- One event at the block's ports. A list of them is a host program together with one schedule of it (log 1). -/
inductive Input where
  /-- One host access (00_scope.md R8). -/
  | bus (a : BusAccess)
  /-- The host's `poll` loop (30_encoding.md R102), in which at most `reads` reads see BUSY = 1 before the engine takes
  its step (log 11). -/
  | poll (reads : Nat)
  /-- The engine takes its step here, if it is enabled. -/
  | engine
  /-- The reset event (70_reset_and_hazards.md R230). -/
  | rst
deriving DecidableEq, Repr

/-- The block's state (10_state.md R20), each register by the bits it stores, and the model's own two fields last. -/
structure State where
  /-- CTRL.ALG, R22. -/
  alg : BitVec 4
  /-- CTRL.IE, R22. -/
  ie : Bool
  /-- PHASE, R37, which is STATUS.BUSY, R23. -/
  phase : Phase
  /-- STATUS.DONE, R23. -/
  done : Bool
  /-- STATUS.WBUSY, R23. -/
  wbusy : Bool
  /-- STATUS.ERR, R23. -/
  err : BitVec 4
  /-- STATUS.HERR, R23. -/
  herr : Byte
  /-- DIGITS, R25. -/
  digits : Word
  /-- KLEN[7:0], R29. -/
  klen : BitVec 8
  /-- DLEN[6:0], R33. -/
  dlen : BitVec 7
  /-- COUNTER_LO, R26. -/
  counterLo : Word
  /-- COUNTER_HI, R26. -/
  counterHi : Word
  /-- TRUNC[30:0], R34; bit 31 is hard-wired 0. -/
  trunc : BitVec 31
  /-- OFFSET[3:0], R35. -/
  offset : BitVec 4
  /-- CODE_LEN[4:0], R36. -/
  codeLen : BitVec 5
  /-- KEY[0..127], R30. -/
  key : Vector Byte 128
  /-- DIGEST[0..63], R31. -/
  digest : Vector Byte 64
  /-- CODE[0..18], R32; CODE[19] is hard-wired 0x00. -/
  code : Vector Byte 19
  /-- LCMD, R37. -/
  lcmd : Word
  /-- The model's own: the events still to come, the next first (log 1). -/
  inputs : List Input
  /-- The model's own: the answers the host has had, the latest first (log 3). -/
  responses : List Response
deriving DecidableEq, Repr

/-- Why a HOST PROGRAM stops. The block itself never does: "None of them changes any register other than STATUS, and none
stops the block" (60_exceptions.md R200). -/
inductive Fault where
  /-- Raised by `programStep` alone, never by `step`: the program's access got a bus error, which "a model of a host program
  should treat ... as a fault of that program" (60_exceptions.md R207). Safe: the block's own step goes on. -/
  | hostBusError
deriving DecidableEq, Repr

/-- Why a step has no meaning. -/
inductive Refusal where
  /-- Raised by an arm of `exec` whose command has no meaning yet; no arm is left in that state. Safe: nothing can be
  proved of such a command. -/
  | notModelled (mnemonic : String)
deriving DecidableEq, Repr

/-- The reset values (10_state.md R40, 70_reset_and_hazards.md R230). `inputs` and `responses` are empty: no host program
is placed (log 2). -/
def State.reset : State where
  alg := defaultAlg
  ie := false
  phase := .idle
  done := false
  wbusy := false
  err := 0
  herr := 0
  digits := 8
  klen := 0
  dlen := 0
  counterLo := 0
  counterHi := 0
  trunc := 0
  offset := 0
  codeLen := 0
  key := Vector.replicate 128 0
  digest := Vector.replicate 64 0
  code := Vector.replicate 19 0
  lcmd := 0
  inputs := []
  responses := []

end Sys2Proof.Machine
end

