-- ==== Sys2Proof/Machine/Flags.lean ====
section
/-! DEFINITION. STATUS and its bits (10_state.md R23, R38), the interrupt line (60_exceptions.md R210), and the writes that
respond to them. No arithmetic flag exists (10_state.md R38). -/

namespace Sys2Proof.Machine

/-- One bit as a word. -/
def bitWord (b : Bool) : Word := (BitVec.ofBool b).setWidth 32

/-- STATUS.BUSY, the view of PHASE the host sees (10_state.md R37). -/
def State.busyBit (s : State) : Bool := decide (s.phase = .busy)

/-- A read of STATUS (20_memory.md R64). -/
def State.statusWord (s : State) : Word :=
  (s.herr.setWidth 32 <<< 16) ||| (s.err.setWidth 32 <<< 8) ||| (bitWord s.wbusy <<< 2) ||| (bitWord s.done <<< 1)
    ||| bitWord s.busyBit

/-- A read of CTRL (20_memory.md R64). -/
def State.ctrlWord (s : State) : Word := (bitWord s.ie <<< 8) ||| s.alg.setWidth 32

/-- The output irq = STATUS.DONE AND CTRL.IE (60_exceptions.md R210). -/
def State.irq (s : State) : Bool := s.done && s.ie

/-- A write to STATUS: only the write-one-to-clear bits 1 and 2 respond (20_memory.md R65). -/
def State.writeStatus (s : State) (v : Word) : State :=
  { s with done := s.done && !v.getLsbD 1, wbusy := s.wbusy && !v.getLsbD 2 }

/-- The busy-write rule: the write is otherwise ignored (70_reset_and_hazards.md R241). -/
def State.noteBusyWrite (s : State) : State := { s with wbusy := true }

/-- A write to CTRL (20_memory.md R65). -/
def State.writeCtrl (s : State) (v : Word) : State := { s with alg := v.extractLsb' 0 4, ie := v.getLsbD 8 }

end Sys2Proof.Machine
end

