-- ==== Sys2Proof/Machine/Operands.lean ====
section
/-! DEFINITION. The implicit operands of the commands (30_encoding.md R91), the counter serialisation of the message port
(40_message_port.md R110) and the input checks (60_exceptions.md R201). -/

namespace Sys2Proof.Machine

/-- The errors a command can end in, by the names of 60_exceptions.md R201. Only HASH_FAIL carries a code of the
primitive (00_scope.md R12). -/
inductive CmdError where
  | illegalCmd
  | badAlg
  | invalidDigits
  | invalidSecret
  | keyLen
  | badDigestLen
  | shortDigest
  | hashFail (herr : Byte)
deriving DecidableEq, Repr

/-- COUNTER = COUNTER_HI ++ COUNTER_LO (10_state.md R26). -/
def State.counter (s : State) : BitVec 64 := s.counterHi ++ s.counterLo

/-- BE8: msg[i] is bits 63-8i : 56-8i (40_message_port.md R110). -/
def be8 (c : BitVec 64) : Message := Vector.ofFn fun i => c.extractLsb' (56 - 8 * i.val) 8

/-- The unsigned value of a byte sequence read big-endian (00_scope.md R11). -/
def beNat (bytes : List Byte) : Nat := bytes.foldl (fun acc b => 256 * acc + b.toNat) 0

/-- The message HMAC and GENERATE present (41_hmac.md R124). -/
def State.message (s : State) : Message := be8 s.counter

/-- KEY[0..KLEN-1] (41_hmac.md R123). -/
def State.keyBytes (s : State) : List Byte := s.key.toList.take s.klen.toNat

/-- DIGEST[0..DLEN-1] (30_encoding.md R91). -/
def State.digestBytes (s : State) : List Byte := s.digest.toList.take s.dlen.toNat

/-- ALG_TABLE[CTRL.ALG], or BAD_ALG (30_encoding.md R93). -/
def algOperand (p : Primitive) (s : State) : Except CmdError AlgDesc :=
  match p.table s.alg with
  | some d => .ok d
  | none => .error .badAlg

/-- 1 ≤ KLEN ≤ KEY_MAX, INVALID_SECRET before KEY_LEN (41_hmac.md R124). -/
def checkKey (s : State) : Except CmdError Unit :=
  if s.klen.toNat = 0 then .error .invalidSecret
  else if s.klen.toNat > Config.keyMax then .error .keyLen
  else .ok ()

/-- DIGITS, checked to lie in 1..DIGITS_MAX (43_modulo_formatter.md R161, R164). -/
def digitsOperand (s : State) : Except CmdError Nat :=
  if s.digits.toNat = 0 ∨ s.digits.toNat > Config.digitsMax then .error .invalidDigits else .ok s.digits.toNat

/-- 1 ≤ DLEN ≤ DIGEST_MAX (42_truncation_selector.md R141). -/
def checkDigestLen (s : State) : Except CmdError Unit :=
  if s.dlen.toNat = 0 ∨ s.dlen.toNat > Config.digestMax then .error .badDigestLen else .ok ()

/-- The call of the primitive with exactly KEY[0..KLEN-1] and the serialised counter; a failure is passed on with its
code (41_hmac.md R123, R126). -/
def callPrimitive (p : Primitive) (s : State) : Except CmdError (List Byte) :=
  match p.hash s.alg s.keyBytes s.message with
  | .ok digest => .ok digest
  | .fail c => .error (.hashFail c)

end Sys2Proof.Machine
end

