-- ==== Sys2Proof/Machine/Ops.lean ====
section
/-! DEFINITION. The shared operations: the host's register window (20_memory.md R63 to R67), acceptance and completion of a
command with or without an error (60_exceptions.md R205), reset, and the kernels two commands share: StoreDigest
(41_hmac.md R125), Truncate (42_truncation_selector.md R142), pow10 and Render (43_modulo_formatter.md R162, R163). -/

namespace Sys2Proof.Machine

/-! ## Error codes and the end of a command -/

/-- The ERR code of each error (60_exceptions.md R201). -/
def CmdError.errCode : CmdError → BitVec 4
  | .illegalCmd => 1
  | .badAlg => 2
  | .invalidDigits => 3
  | .invalidSecret => 4
  | .keyLen => 5
  | .badDigestLen => 6
  | .shortDigest => 7
  | .hashFail _ => 8

/-- The HERR an error leaves: 0 but for HASH_FAIL (60_exceptions.md R205). -/
def CmdError.herrCode : CmdError → Byte
  | .illegalCmd | .badAlg | .invalidDigits | .invalidSecret | .keyLen | .badDigestLen | .shortDigest => 0
  | .hashFail c => c

/-- The STATUS part of a completion: BUSY ← 0, PHASE ← IDLE, DONE ← 1, ERR and HERR as given (60_exceptions.md R205). -/
def State.finish (s : State) (err : BitVec 4) (herr : Byte) : State :=
  { s with phase := .idle, done := true, err := err, herr := herr }

/-- What the block does in place of taking an exception (60_exceptions.md R204, R209): the command ends, STATUS says why,
and nothing else is written. -/
def State.failWith (s : State) (e : CmdError) : State := s.finish e.errCode e.herrCode

/-- `Complete` of 60_exceptions.md R205: the writes of the command's rule, or none of them, and then STATUS. -/
def State.complete (s : State) (outcome : Except CmdError State) : State :=
  match outcome with
  | .ok t => t.finish 0 0
  | .error e => s.failWith e

/-- `Accept` of 60_exceptions.md R205. -/
def State.accept (s : State) (v : Word) : State :=
  { s with lcmd := v, phase := .busy, done := false, err := 0, herr := 0 }

/-- The reset event: every piece of the block's state takes its reset value and a command in flight is abandoned
(70_reset_and_hazards.md R230). The model's own two fields are not state of the block and stay. -/
def State.resetEvent (s : State) : State := { State.reset with inputs := s.inputs, responses := s.responses }

/-- The same block with another schedule before it (log 1). -/
def State.withInputs (s : State) (l : List Input) : State := { s with inputs := l }

/-! ## Buffers -/

/-- CODE[j], with CODE[19] hard-wired 0x00 (10_state.md R32). -/
def State.codeByte (s : State) (j : Nat) : Byte := if h : j < 19 then s.code[j] else 0

/-- Word k of DIGEST (20_memory.md R67). -/
def State.digestWord (s : State) (k : Fin 16) : Word :=
  wordOfLanes s.digest[4 * k.val] s.digest[4 * k.val + 1] s.digest[4 * k.val + 2] s.digest[4 * k.val + 3]

/-- Word k of CODE (20_memory.md R67). -/
def State.codeWord (s : State) (k : Fin 5) : Word :=
  wordOfLanes (s.codeByte (4 * k.val)) (s.codeByte (4 * k.val + 1)) (s.codeByte (4 * k.val + 2)) (s.codeByte (4 * k.val + 3))

/-- A buffer after a write of word k: byte 4k+j takes lane j (20_memory.md R65, R67). -/
def writeLanes {n : Nat} (buf : Vector Byte n) (k : Nat) (v : Word) : Vector Byte n :=
  Vector.ofFn fun i => if i.val / 4 = k then byteLane v (i.val % 4) else buf[i.val]

/-! ## The register window -/

/-- ID (10_state.md R21): ASCII "TOTP". -/
def idValue : Word := 0x544F5450

/-- VERSION (10_state.md R21). -/
def versionValue : Word := 0x00010000

/-- The value a register reads as (20_memory.md R64). -/
def State.readReg (s : State) : Reg → Word
  | .id => idValue
  | .version => versionValue
  | .ctrl => s.ctrlWord
  | .status => s.statusWord
  | .cmd => 0
  | .digits => s.digits
  | .klen => s.klen.setWidth 32
  | .dlen => s.dlen.setWidth 32
  | .counterLo => s.counterLo
  | .counterHi => s.counterHi
  | .trunc => s.trunc.setWidth 32
  | .offset => s.offset.setWidth 32
  | .codeLen => s.codeLen.setWidth 32
  | .key _ => 0
  | .digest k => s.digestWord k
  | .code k => s.codeWord k

/-- `MemRead(off, 4)` at an aligned offset; an unmapped one reads 0 (20_memory.md R64, R66). -/
def State.memRead (s : State) (off : Offset) : Word :=
  match regAt off with
  | some r => s.readReg r
  | none => 0

/-- A write to a register other than STATUS while PHASE = IDLE (20_memory.md R65). -/
def State.writeReg (s : State) (r : Reg) (v : Word) : State :=
  match r with
  | .id | .version | .status | .offset | .codeLen | .code _ => s
  | .ctrl => s.writeCtrl v
  | .cmd => s.accept v
  | .digits => { s with digits := v }
  | .klen => { s with klen := v.setWidth 8 }
  | .dlen => { s with dlen := v.setWidth 7 }
  | .counterLo => { s with counterLo := v }
  | .counterHi => { s with counterHi := v }
  | .trunc => { s with trunc := v.setWidth 31 }
  | .key k => { s with key := writeLanes s.key k.val v }
  | .digest k => { s with digest := writeLanes s.digest k.val v }

/-- `MemWrite(off, 4, v)` at an aligned offset (20_memory.md R65, R66). -/
def State.memWrite (s : State) (off : Offset) (v : Word) : State :=
  if off = Reg.off .status then s.writeStatus v
  else if s.phase = .busy then s.noteBusyWrite
  else
    match regAt off with
    | some r => s.writeReg r v
    | none => s

/-- One host access: the block's state after it, and its answer. A malformed access is a bus error and changes nothing
(20_memory.md R63). -/
def State.access (s : State) (a : BusAccess) : State × Response :=
  if a.wellFormed then
    match a with
    | .read _ off => (s, .data (s.memRead off))
    | .write _ off v => (s.memWrite off v, .ok)
  else (s, .busError)

/-- The data a read's answer carries: 0 on a bus error (20_memory.md R63). -/
def Response.readData : Response → Word
  | .data v => v
  | .ok => 0
  | .busError => 0

/-- A host access with its answer handed to the host. -/
def State.hostAccess (s : State) (a : BusAccess) : State :=
  { (s.access a).1 with responses := (s.access a).2 :: s.responses }

/-! ## Kernels -/

/-- `StoreDigest(D, L)` (41_hmac.md R125). -/
def State.storeDigest (s : State) (digest : List Byte) (len : Nat) : State :=
  { s with
    digest := Vector.ofFn fun i => if i.val < len then digest.getD i.val 0 else 0
    dlen := BitVec.ofNat 7 len }

/-- The offset: the low nibble of the final byte (42_truncation_selector.md R143). -/
def truncOffset (digest : List Byte) (len : Nat) : BitVec 4 := (digest.getD (len - 1) 0).extractLsb' 0 4

/-- The 31-bit window at an offset (42_truncation_selector.md R142, R145). -/
def truncWindow (digest : List Byte) (off : Nat) : BitVec 31 :=
  (((digest.getD off 0 &&& 0x7F).setWidth 32 <<< 24) ||| ((digest.getD (off + 1) 0).setWidth 32 <<< 16)
    ||| ((digest.getD (off + 2) 0).setWidth 32 <<< 8) ||| (digest.getD (off + 3) 0).setWidth 32 : Word).setWidth 31

/-- `Truncate(D, L)` (42_truncation_selector.md R142). -/
def truncate (digest : List Byte) (len : Nat) : BitVec 4 × BitVec 31 :=
  (truncOffset digest len, truncWindow digest (truncOffset digest len).toNat)

/-- OFFSET and TRUNC take what `Truncate` gave (42_truncation_selector.md R141). -/
def State.storeTrunc (s : State) (r : BitVec 4 × BitVec 31) : State := { s with offset := r.1, trunc := r.2 }

/-- `pow10(d)` by repeated 64-bit multiplication (43_modulo_formatter.md R162). -/
def pow10 : Nat → BitVec 64
  | 0 => 1
  | d + 1 => pow10 d * 10

/-- r = v mod 10^d in 64 bits (43_modulo_formatter.md R165). -/
def codeValue (v : BitVec 31) (d : Nat) : BitVec 64 := v.setWidth 64 % pow10 d

/-- `ascii(n)`, the character 0x30 + n (00_scope.md R12; log 19). -/
def ascii (n : BitVec 64) : Byte := 0x30 + n.setWidth 8

/-- The character i places from the right: ascii((r div 10^i) mod 10) (43_modulo_formatter.md R163). -/
def digitChar (r : BitVec 64) (i : Nat) : Byte := ascii ((r / pow10 i) % 10)

/-- `Render(r, d)` (43_modulo_formatter.md R163): CODE[d-1-i] is the character i places from the right, the rest is 0x00.
-/
def State.render (s : State) (r : BitVec 64) (d : Nat) : State :=
  { s with
    code := Vector.ofFn fun j => if j.val < d then digitChar r (d - 1 - j.val) else 0
    codeLen := BitVec.ofNat 5 d }

end Sys2Proof.Machine
end

