-- ==== Sys2Proof/Machine/Formatter.lean ====
section
/-! DEFINITION. The FORMAT command of the modulo_formatter (43_modulo_formatter.md R161). -/

namespace Sys2Proof.Machine

/-- `Run(FORMAT)` (43_modulo_formatter.md R161). -/
def runFormat (s : State) : Except CmdError State :=
  match digitsOperand s with
  | .error e => .error e
  | .ok d => .ok (s.render (codeValue s.trunc d) d)

/-- FORMAT: TRUNC modulo 10^DIGITS as zero-padded decimal (43_modulo_formatter.md R161). -/
def execFormat (s : State) : Host.Outcome State Fault Refusal := .next (s.complete (runFormat s))

end Sys2Proof.Machine
end

