-- ==== Sys2Proof/Machine/Hmac.lean ====
section
/-! DEFINITION. The HMAC command (41_hmac.md R124). -/

namespace Sys2Proof.Machine

/-- HMAC's input checks, in their order, before any cryptographic work (41_hmac.md R124, R127). -/
def hmacInputs (p : Primitive) (s : State) : Except CmdError AlgDesc :=
  match algOperand p s with
  | .error e => .error e
  | .ok desc =>
    match checkKey s with
    | .error e => .error e
    | .ok _ => .ok desc

/-- `Run(HMAC)` on any primitive (41_hmac.md R124). -/
def runHmac (p : Primitive) (s : State) : Except CmdError State :=
  match hmacInputs p s with
  | .error e => .error e
  | .ok desc =>
    match callPrimitive p s with
    | .error e => .error e
    | .ok digest => .ok (s.storeDigest digest desc.L)

/-- HMAC: the digest of COUNTER under KEY (41_hmac.md R124). -/
def execHmac (s : State) : Host.Outcome State Fault Refusal := .next (s.complete (runHmac platform s))

end Sys2Proof.Machine
end

