-- ==== Sys2Proof/Machine/Sequencer.lean ====
section
/-! DEFINITION. The commands of the sequencer: GENERATE (44_sequencer.md R181) and CLEAR (44_sequencer.md R190). -/

namespace Sys2Proof.Machine

/-- GENERATE's input checks, in their order: BAD_ALG, INVALID_DIGITS, INVALID_SECRET, KEY_LEN
(44_sequencer.md R181, 60_exceptions.md R203). -/
def generateInputs (p : Primitive) (s : State) : Except CmdError (AlgDesc × Nat) :=
  match algOperand p s with
  | .error e => .error e
  | .ok desc =>
    match digitsOperand s with
    | .error e => .error e
    | .ok d =>
      match checkKey s with
      | .error e => .error e
      | .ok _ => .ok (desc, d)

/-- The writes of a GENERATE whose primitive answered a digest (44_sequencer.md R181). -/
def State.storeGenerated (s : State) (digest : List Byte) (len d : Nat) : State :=
  ((s.storeDigest digest len).storeTrunc (truncate digest len)).render (codeValue (truncate digest len).2 d) d

/-- `Run(GENERATE)` on any primitive (44_sequencer.md R181). -/
def runGenerate (p : Primitive) (s : State) : Except CmdError State :=
  match generateInputs p s with
  | .error e => .error e
  | .ok (desc, d) =>
    match callPrimitive p s with
    | .error e => .error e
    | .ok digest => .ok (s.storeGenerated digest desc.L d)

/-- GENERATE: counter, digest, truncated value, code, all or nothing (44_sequencer.md R181). -/
def execGenerate (s : State) : Host.Outcome State Fault Refusal := .next (s.complete (runGenerate platform s))

/-- The writes of CLEAR: every data register and buffer is zeroed; CTRL, DIGITS and WBUSY stay (44_sequencer.md R190). -/
def State.zeroise (s : State) : State :=
  { s with
    key := Vector.replicate 128 0
    digest := Vector.replicate 64 0
    code := Vector.replicate 19 0
    klen := 0
    dlen := 0
    counterLo := 0
    counterHi := 0
    trunc := 0
    offset := 0
    codeLen := 0 }

/-- CLEAR always succeeds (44_sequencer.md R190). -/
def execClear (s : State) : Host.Outcome State Fault Refusal := .next (s.complete (.ok s.zeroise))

end Sys2Proof.Machine
end

