-- ==== Sys2Proof/Machine/Truncation.lean ====
section
/-! DEFINITION. The TRUNC command of the truncation_selector (42_truncation_selector.md R141). -/

namespace Sys2Proof.Machine

/-- `Run(TRUNC)` (42_truncation_selector.md R141). -/
def runTrunc (s : State) : Except CmdError State :=
  match checkDigestLen s with
  | .error e => .error e
  | .ok _ =>
    if (truncOffset s.digestBytes s.dlen.toNat).toNat + 4 > s.dlen.toNat then .error .shortDigest
    else .ok (s.storeTrunc (truncate s.digestBytes s.dlen.toNat))

/-- TRUNC: dynamic truncation of DIGEST[0..DLEN-1] (42_truncation_selector.md R141). -/
def execTrunc (s : State) : Host.Outcome State Fault Refusal := .next (s.complete (runTrunc s))

end Sys2Proof.Machine
end

