-- ==== Sys2Proof/Machine/Dispatch.lean ====
section
/-! DEFINITION. One arm per command: the completion of that command (60_exceptions.md R205). -/

namespace Sys2Proof.Machine

def exec (i : Instr) (s : State) : Host.Outcome State Fault Refusal :=
  match i with
  | .hmac => Sys2Proof.Machine.execHmac s
  | .trunc => Sys2Proof.Machine.execTrunc s
  | .format => Sys2Proof.Machine.execFormat s
  | .generate => Sys2Proof.Machine.execGenerate s
  | .clear => Sys2Proof.Machine.execClear s

end Sys2Proof.Machine
end

