-- ==== Sys2Proof/Machine/Engine.lean ====
section
/-! DEFINITION. Whose turn it is, and what the turn does: the engine's completion (60_exceptions.md R205), the host's accesses
and `poll` loop (30_encoding.md R102), the reset event (70_reset_and_hazards.md R230). -/

namespace Sys2Proof.Machine

/-- The engine's completion step: the latched word is decoded and runs; an illegal word runs as ILLEGAL_CMD
(60_exceptions.md R202, R205). -/
def completion (s : State) : Host.Outcome State Fault Refusal :=
  match decode s.lcmd with
  | .ok i => exec i s
  | .error _ => .next (s.failWith .illegalCmd)

/-- The engine's turn: the completion is enabled exactly when PHASE = BUSY (60_exceptions.md R205). -/
def engineTurn (s : State) : Host.Outcome State Fault Refusal :=
  if s.phase = .busy then completion s else .next s

/-- One turn of the `poll` loop: read STATUS, go on while BUSY = 1 (30_encoding.md R102). After `reads` reads that saw BUSY = 1
the engine, whose step is weakly fair, takes its turn (70_reset_and_hazards.md R250; log 11). -/
def pollTurn (reads : Nat) (rest : List Input) (s : State) : Host.Outcome State Fault Refusal :=
  if s.phase = .busy then
    match reads with
    | 0 => completion (s.withInputs (.poll 0 :: rest))
    | n + 1 => .next ((s.withInputs (.poll n :: rest)).hostAccess (.read 4 (Reg.off .status)))
  else .next ((s.withInputs rest).hostAccess (.read 4 (Reg.off .status)))

/-- The next event at the block's ports. With no event left the engine still completes a command in flight, and an idle
block holds every register as it stands (70_reset_and_hazards.md R252, 60_exceptions.md R225; log 1). -/
def turn (s : State) : Host.Outcome State Fault Refusal :=
  match s.inputs with
  | [] => engineTurn s
  | .engine :: rest => engineTurn (s.withInputs rest)
  | .rst :: rest => .next (s.withInputs rest).resetEvent
  | .bus a :: rest => .next ((s.withInputs rest).hostAccess a)
  | .poll reads :: rest => pollTurn reads rest s

end Sys2Proof.Machine
end

