-- ==== Sys2Proof/Machine/Step.lean ====
section
/-! DEFINITION. The step of the machine, and where it takes its next command from. -/

namespace Sys2Proof.Machine

/-- One step: the next event in `inputs`, or the engine's turn (00_scope.md R8). -/
def step (s : State) : Host.Outcome State Fault Refusal := turn s

/-- The state in which the command word w has just been accepted (60_exceptions.md R205) and the engine's turn comes next,
so that the very next step completes it. The block has no program counter and fetches nothing (10_state.md R28; log 2). -/
def State.withFetchWord (s : State) (nbits w : Nat) : State :=
  { s.accept (BitVec.ofNat 32 (w % 2 ^ nbits)) with inputs := .engine :: s.inputs }

end Sys2Proof.Machine
end

