-- ==== Sys2Proof/Machine/Host.lean ====
section
/-! DEFINITION. The host's side, outside the block: the assembly of 30_encoding.md R100 to R105 as the bus events it stands
for, the two public operations of the source as host programs (44_sequencer.md R184), and a host program's own fault on a
bus error (60_exceptions.md R207). -/

namespace Sys2Proof.Machine

/-- The offset an assembly NAME stands for (30_encoding.md R100). -/
def targetOff : Target → Offset
  | .name r => r.off
  | .at off => off

/-- Word k of a byte list in big-endian lanes, bytes past its end taken as 0x00 (30_encoding.md R103). -/
def packedWord (bytes : List Byte) (k : Nat) : Word :=
  wordOfLanes (bytes.getD (4 * k) 0) (bytes.getD (4 * k + 1) 0) (bytes.getD (4 * k + 2) 0) (bytes.getD (4 * k + 3) 0)

/-- The 32-bit write of a word at a byte offset. -/
def wrAt (off : Offset) (v : Word) : BusAccess := .write 4 off v

/-- The writes of words 0 .. ceil(n/4)-1 of a buffer at a base offset (30_encoding.md R103, R104). -/
def packedWrites (base : Nat) (bytes : List Byte) : List BusAccess :=
  (List.range ((bytes.length + 3) / 4)).map fun k => wrAt (BitVec.ofNat 12 (base + 4 * k)) (packedWord bytes k)

/-- `ldkey` (30_encoding.md R103). -/
def ldkeyAccesses (bytes : List Byte) : List BusAccess :=
  wrAt (Reg.off .klen) (BitVec.ofNat 32 bytes.length) :: packedWrites 0x100 bytes

/-- `lddgst` (30_encoding.md R104). -/
def lddgstAccesses (bytes : List Byte) : List BusAccess :=
  wrAt (Reg.off .dlen) (BitVec.ofNat 32 bytes.length) :: packedWrites 0x200 bytes

/-- `ldctr` (30_encoding.md R104). -/
def ldctrAccesses (n : BitVec 64) : List BusAccess :=
  [wrAt (Reg.off .counterHi) (n.extractLsb' 32 32), wrAt (Reg.off .counterLo) (n.extractLsb' 0 32)]

/-- The events an assembly line stands for (30_encoding.md R100 to R105). `reads` is used by `poll` alone: how many of its
reads may see BUSY = 1, which depends on the schedule (30_encoding.md R105; log 11). DESIGN CHOICE (log 22): an `ldkey` or
`lddgst` whose length is outside the bounds of R103 and R104, which `AsmLine.wellFormed` refuses and to which the spec gives
no expansion, is expanded by the same formula. -/
def expandLine (reads : Nat) : AsmLine → List Input
  | .wr t v => [.bus (.write 4 (targetOff t) v)]
  | .rd t => [.bus (.read 4 (targetOff t))]
  | .cmd i => [.bus (.write 4 (Reg.off .cmd) (encode i))]
  | .poll => [.poll reads]
  | .ldkey bytes => (ldkeyAccesses bytes).map .bus
  | .ldctr n => (ldctrAccesses n).map .bus
  | .lddgst bytes => (lddgstAccesses bytes).map .bus

/-- A host program as the events it stands for, every `poll` with the same number of reads. -/
def assemble (reads : Nat) (lines : List AsmLine) : List Input := lines.flatMap (expandLine reads)

/-! ## Running a host program -/

/-- The step of the block seen by a host program: a bus error is that program's fault (60_exceptions.md R207; log 4). -/
def programStep (s : State) : Host.Outcome State Fault Refusal :=
  match s.inputs with
  | .bus a :: _ => if a.wellFormed then step s else .fault .hostBusError
  | _ => step s

/-- How many steps an event can take. -/
def Input.weight : Input → Nat
  | .bus _ | .engine | .rst => 1
  | .poll reads => reads + 2

/-- An upper bound on the steps before the schedule is used up and the engine has had its turn
(70_reset_and_hazards.md R250; log 10). -/
def State.stepsLeft (s : State) : Nat := (s.inputs.map Input.weight).sum + 1

/-- The machine as a host program runs it. -/
def hostCore : Host.Core :=
  { State := State, Fault := Fault, Refusal := Refusal, step := programStep, reset := State.reset }

/-- A host program, alone on the bus, run to the end of its run (70_reset_and_hazards.md R252): its events take the place of
`inputs`. -/
def runLines (reads : Nat) (lines : List AsmLine) (s : State) : Host.Outcome State Fault Refusal :=
  let start := s.withInputs (assemble reads lines)
  Host.Core.run hostCore start.stepsLeft start

/-- What a host does after a run that did not stop. -/
def afterRun {α : Type} (o : Host.Outcome State Fault Refusal) (next : State → Host.Outcome α Fault Refusal) :
    Host.Outcome α Fault Refusal :=
  match o with
  | .next s => next s
  | .fault f => .fault f
  | .refused r => .refused r

/-- The data of the last n answers, the oldest first. -/
def State.lastReads (s : State) (n : Nat) : List Word := (s.responses.take n).reverse.map Response.readData

/-- The data of the latest answer. -/
def State.lastRead (s : State) : Word := (s.lastReads 1).headD 0

/-! ## The public operations of the source -/

/-- The host's counter, floor(Time / Step), with Time as uint64 (40_message_port.md R113). DESIGN CHOICE (log 20): the spec
states no width for Step, so it is a natural number with no bound; a Step of 0 is the host's own error, and no counter comes
of it. -/
def hostCounter (time : BitVec 64) (step : Nat) : Option (BitVec 64) :=
  if step = 0 then none else some (BitVec.ofNat 64 (time.toNat / step))

/-- The lines of `generate_custom` as far as `poll`, after which the host looks at ERR (44_sequencer.md R184); none for a Step
of 0. IE is the host's to choose: the rule writes it and names no value (DESIGN CHOICE, log 23). -/
def generateCustomProgram (alg : BitVec 4) (ie : Bool) (step : Nat) (digits : Word) (secret : List Byte)
    (time : BitVec 64) : Option (List AsmLine) :=
  (hostCounter time step).map fun counter =>
    [.wr (.name .ctrl) ((bitWord ie <<< 8) ||| alg.setWidth 32), .wr (.name .digits) digits, .ldkey secret, .ldctr counter,
      .cmd .generate, .poll]

/-- The same with the defaults of `generate`: step = 30, digits = 8, alg = DEFAULT_ALG (44_sequencer.md R184). The rule names
no IE value here either, so it stays an argument (DESIGN CHOICE, log 23). -/
def generateProgram (ie : Bool) (secret : List Byte) (time : BitVec 64) : Option (List AsmLine) :=
  generateCustomProgram defaultAlg ie 30 8 secret time

/-- What a public operation gives its caller. -/
inductive CallResult where
  /-- The code: CODE_LEN bytes of CODE. -/
  | code (chars : List Byte)
  /-- The command ended with ERR ≠ 0. -/
  | failed (err : BitVec 4) (herr : Byte)
  /-- Step = 0, the host's own error: nothing was sent to the block (log 20). -/
  | zeroStep
deriving DecidableEq, Repr

/-- The reads of the words that hold the first len bytes of CODE. -/
def codeWordReads (len : Nat) : List AsmLine :=
  ((List.finRange 5).take ((len + 3) / 4)).map fun k => .rd (.name (.code k))

/-- The four bytes of a buffer word, the lowest index first (20_memory.md R67). -/
def laneBytes (v : Word) : List Byte := [byteLane v 0, byteLane v 1, byteLane v 2, byteLane v 3]

/-- "read CODE_LEN bytes of CODE" (44_sequencer.md R184): CODE_LEN, then as many words of CODE as hold that many bytes. -/
def readCode (s : State) : Host.Outcome (CallResult × State) Fault Refusal :=
  afterRun (runLines 0 [.rd (.name .codeLen)] s) fun t =>
    let len := t.lastRead.toNat
    let reads := codeWordReads len
    afterRun (runLines 0 reads t) fun u =>
      .next (.code (((u.lastReads reads.length).flatMap laneBytes).take len), u)

/-- After `poll`: "check ERR = 0" on the STATUS value it ended with, and read the code (44_sequencer.md R184). -/
def checkAndReadCode (s : State) : Host.Outcome (CallResult × State) Fault Refusal :=
  let err := s.lastRead.extractLsb' 8 4
  if err = 0 then readCode s else .next (.failed err (s.lastRead.extractLsb' 16 8), s)

/-- `generate_custom(digest, step, digits, secret, time)` as the host carries it out (44_sequencer.md R184). -/
def hostGenerateCustom (reads : Nat) (alg : BitVec 4) (ie : Bool) (step : Nat) (digits : Word) (secret : List Byte)
    (time : BitVec 64) (s : State) : Host.Outcome (CallResult × State) Fault Refusal :=
  match generateCustomProgram alg ie step digits secret time with
  | none => .next (.zeroStep, s)
  | some lines => afterRun (runLines reads lines s) checkAndReadCode

/-- `generate(secret, time)` as the host carries it out (44_sequencer.md R184). -/
def hostGenerate (reads : Nat) (ie : Bool) (secret : List Byte) (time : BitVec 64) (s : State) :
    Host.Outcome (CallResult × State) Fault Refusal :=
  hostGenerateCustom reads defaultAlg ie 30 8 secret time s

end Sys2Proof.Machine
end

