-- ==== Sys2Proof/Machine/Rfc2104.lean ====
section
/-! DEFINITION. The named property `hmacFn_is_rfc2104` (41_hmac.md R122). The machine does not use it: a claim that needs the
real hash assumes it. The hash functions are arguments, since SHA-1, SHA-256 and SHA-512 are outside the spec
(00_scope.md R5(a); log 14). -/

namespace Sys2Proof.Machine

/-- K': the key zero-padded to B bytes, hashed first when it is longer than B (41_hmac.md R122; log 14). -/
def keyBlock (hash : List Byte → List Byte) (blockLen : Nat) (key : List Byte) : List Byte :=
  let short := if key.length ≤ blockLen then key else hash key
  short ++ List.replicate (blockLen - short.length) 0

/-- HMAC(K, m) = H((K' ⊕ opad) ∥ H((K' ⊕ ipad) ∥ m)) (41_hmac.md R122). -/
def rfc2104 (hash : List Byte → List Byte) (blockLen : Nat) (key msg : List Byte) : List Byte :=
  let block := keyBlock hash blockLen key
  hash (block.map (· ^^^ 0x5C) ++ hash (block.map (· ^^^ 0x36) ++ msg))

/-- `hmacFn_is_rfc2104` (41_hmac.md R122) of a primitive, for the fixed entries 0, 1 and 2, with `sha 0`, `sha 1`, `sha 2`
standing for SHA-1, SHA-256 and SHA-512. -/
def HmacFnIsRfc2104 (sha : BitVec 4 → List Byte → List Byte) (p : Primitive) : Prop :=
  ∀ (alg : BitVec 4) (desc : AlgDesc) (key : List Byte) (msg : Message),
    alg.toNat ≤ 2 → p.table alg = some desc → 1 ≤ key.length → key.length ≤ Config.keyMax →
      p.hash alg key msg = .ok (rfc2104 (sha alg) desc.B key msg.toList)

end Sys2Proof.Machine
end

