-- ==== Sys2Proof/Safety.lean ====
section
/-! DEFINITION. The terms claims are stated in: the invariant of the block, the end of a
run, and which offsets a command may change. -/

namespace Sys2Proof.Machine

/-- What every step keeps. -/
structure State.Inv (s : State) : Prop where
  /-- From acceptance to completion DONE, ERR and HERR are 0 (60_exceptions.md R205). -/
  busy_status : s.phase = .busy → s.done = false ∧ s.err = 0 ∧ s.herr = 0
  /-- ERR values 9 to 15 are never produced (60_exceptions.md R214). -/
  err_known : s.err.toNat ≤ 8
  /-- HERR is 0 but for HASH_FAIL (10_state.md R23). -/
  herr_hashFail : s.err ≠ 8 → s.herr = 0
  /-- CODE_LEN lies in 0..19 (10_state.md R36). -/
  codeLen_le : s.codeLen.toNat ≤ 19
  /-- CODE[0..CODE_LEN-1] are ASCII digits (43_modulo_formatter.md R166). -/
  code_digits : ∀ (j : Nat) (h : j < 19), j < s.codeLen.toNat → 0x30 ≤ s.code[j].toNat ∧ s.code[j].toNat ≤ 0x39
  /-- CODE[CODE_LEN..] is 0x00 (43_modulo_formatter.md R166). -/
  code_rest : ∀ (j : Nat) (h : j < 19), s.codeLen.toNat ≤ j → s.code[j] = 0

/-- The events that are accesses of the host. -/
def Input.isHostAccess : Input → Bool
  | .bus _ | .poll _ => true
  | .engine | .rst => false

/-- The end of a host program's run: "the host has made its last bus access *and* PHASE = IDLE" (70_reset_and_hazards.md
R252). A turn of the engine or a reset event may still be to come. -/
def State.runEnded (s : State) : Prop := (∀ x ∈ s.inputs, x.isHostAccess = false) ∧ s.phase = .idle

/-- A host program is safe as far as this state tells: none of its accesses got a bus error (60_exceptions.md R207). -/
def State.noBusError (s : State) : Prop := Response.busError ∉ s.responses

/-- The offsets whose reads a command may change: STATUS and the outputs of 10_state.md R39. -/
def mayChange (i : Instr) (off : Offset) : Prop :=
  off = 0x00C ∨
    match i with
    | .hmac => off = 0x01C ∨ (0x200 ≤ off.toNat ∧ off.toNat < 0x240)
    | .trunc => off = 0x028 ∨ off = 0x02C
    | .format => off = 0x030 ∨ (0x300 ≤ off.toNat ∧ off.toNat < 0x314)
    | .generate =>
      off = 0x01C ∨ off = 0x028 ∨ off = 0x02C ∨ off = 0x030 ∨ (0x200 ≤ off.toNat ∧ off.toNat < 0x240) ∨
        (0x300 ≤ off.toNat ∧ off.toNat < 0x314)
    | .clear =>
      (0x018 ≤ off.toNat ∧ off.toNat ≤ 0x030) ∨ (0x200 ≤ off.toNat ∧ off.toNat < 0x240) ∨
        (0x300 ≤ off.toNat ∧ off.toNat < 0x314)

end Sys2Proof.Machine
end

