-- ==== Sys2Proof/Certificates/Slice0/Obligations.lean ====
section
/-! DEFINITION. The statements for the provers. A statement about what the external primitive makes of an input has no
hypothesis on its answer (41_hmac.md R121 leaves it open): its conclusion says what follows for each answer. -/

open Sys2Proof Sys2Proof.Machine

/-! ## Encoding -/

/-- 30_encoding.md R92, R94: the five command words, decoded and encoded, and three words refused by name. -/
def Obligations.CommandWordsDecode : Prop :=
  decode 0x00000001 = .ok .hmac ∧ decode 0x00000002 = .ok .trunc ∧ decode 0x00000003 = .ok .format ∧
    decode 0x00000004 = .ok .generate ∧ decode 0x00000005 = .ok .clear ∧ decode 0x00000000 = .error (.reservedOpcode 0) ∧
      decode 0x00000006 = .error (.reservedOpcode 6) ∧ decode 0x00000014 = .error .reservedBits ∧
        encode .hmac = 0x00000001 ∧ encode .trunc = 0x00000002 ∧ encode .format = 0x00000003 ∧
          encode .generate = 0x00000004 ∧ encode .clear = 0x00000005

/-- 30_encoding.md R90, R92, R94: a word decodes to a command exactly when it is that command's word, so decode and encode
agree in both directions over all 2^32 words, and a refused word is none of the five. -/
def Obligations.DecodeAndEncodeAgree : Prop :=
  (∀ (w : Word) (i : Instr), decode w = .ok i ↔ w = encode i) ∧
    (∀ w : Word, (∃ e, decode w = .error e) ↔ w.toNat = 0 ∨ 6 ≤ w.toNat) ∧
      (∀ (i : Instr), decodeTableWord 32 (encode i).toNat = some i)

/-- 20_memory.md R62: an offset names a register exactly when the map lists it for that register. -/
def Obligations.RegisterMapIsExact : Prop :=
  (∀ (off : Offset) (r : Reg), regAt off = some r ↔ r.off = off) ∧
    (∀ off : Offset, regAt off = none ↔
      off.toNat % 4 ≠ 0 ∨ (0x034 ≤ off.toNat ∧ off.toNat < 0x100) ∨ (0x180 ≤ off.toNat ∧ off.toNat < 0x200) ∨
        (0x240 ≤ off.toNat ∧ off.toNat < 0x300) ∨ 0x314 ≤ off.toNat)

/-! ## Configuration -/

/-- 00_scope.md R7: the fixed entries of ALG_TABLE with their L and B, and the bound on every present entry. -/
def Obligations.AlgTableIsWellFormed : Prop :=
  platform.table 0 = some { L := 20, B := 64 } ∧ platform.table 1 = some { L := 32, B := 64 } ∧
    platform.table 2 = some { L := 64, B := 128 } ∧
      (∀ (alg : BitVec 4) (desc : AlgDesc), platform.table alg = some desc → 20 ≤ desc.L ∧ desc.L ≤ 64) ∧
        (∀ desc : AlgDesc, desc.wellFormed = true ↔ 20 ≤ desc.L ∧ desc.L ≤ 64)

/-- 00_scope.md R6: DEFAULT_ALG is a present ALG_TABLE index. -/
def Obligations.DefaultAlgIsPresent : Prop := ∃ desc, platform.table State.reset.alg = some desc

/-- 41_hmac.md R121(b): an Ok result of the primitive has exactly ALG_TABLE[alg].L bytes. -/
def Obligations.PrimitiveAnswersDigestLength : Prop :=
  ∀ (alg : BitVec 4) (desc : AlgDesc) (key : List Byte) (msg : Message), platform.table alg = some desc →
    match platform.hash alg key msg with
    | .ok digest => digest.length = desc.L
    | .fail _ => True

/-! ## Reset -/

/-- 10_state.md R40: every row of the table of reset values. -/
def Obligations.ResetStateValues : Prop :=
  State.reset.memRead 0x000 = 0x544F5450 ∧ State.reset.memRead 0x004 = 0x00010000 ∧ State.reset.alg = defaultAlg ∧
    State.reset.ie = false ∧ State.reset.statusWord = 0 ∧ State.reset.digits = 8 ∧ State.reset.klen = 0 ∧
      State.reset.dlen = 0 ∧ State.reset.counterLo = 0 ∧ State.reset.counterHi = 0 ∧ State.reset.trunc = 0 ∧
        State.reset.offset = 0 ∧ State.reset.codeLen = 0 ∧
          (∀ (j : Nat) (h : j < 128), State.reset.key[j] = 0) ∧ (∀ (j : Nat) (h : j < 64), State.reset.digest[j] = 0) ∧
            (∀ j : Nat, State.reset.codeByte j = 0) ∧ State.reset.phase = .idle ∧ State.reset.lcmd = 0 ∧
              State.reset.irq = false

/-- 70_reset_and_hazards.md R230: the reset event is possible in any state and sets every piece of the block's state to its
reset value. That the host's own record of answers stays is the model's choice (log 3). -/
def Obligations.ResetEventResetsAnyState : Prop :=
  ∀ (s : State) (rest : List Input), s.inputs = .rst :: rest →
    step s = .next { State.reset with inputs := rest, responses := s.responses }

/-! ## The register window -/

/-- 20_memory.md R63: a host access of another width or at another alignment gets a bus error and leaves the block as it was (so
WBUSY is not set and no command is accepted); a read's data is 0. -/
def Obligations.MalformedAccessIsBusError : Prop :=
  ∀ (s : State) (width : Nat) (off : Offset) (v : Word), width ≠ 4 ∨ off.toNat % 4 ≠ 0 →
    s.access (.read width off) = (s, .busError) ∧ s.access (.write width off v) = (s, .busError) ∧
      Response.readData .busError = 0

/-- 20_memory.md R74, 00_scope.md R8: a host access is one step, and changes the block as the access says and nothing more. The
schedule and the host's record of answers are the model's (logs 1 and 3). -/
def Obligations.StepPerformsHostAccess : Prop :=
  ∀ (s : State) (a : BusAccess) (rest : List Input), s.inputs = .bus a :: rest →
    ∃ t, step s = .next t ∧ t.responses = (s.access a).2 :: s.responses ∧
      t = { (s.access a).1 with inputs := rest, responses := t.responses }

/-- 60_exceptions.md R207: a model of a host program treats the bus error as a fault of that program. The form of that fault is
the model's (log 4). -/
def Obligations.HostProgramFaultsOnBusError : Prop :=
  ∀ (s : State) (rest : List Input) (width : Nat) (off : Offset) (v : Word), width ≠ 4 ∨ off.toNat % 4 ≠ 0 →
    programStep { s with inputs := .bus (.read width off) :: rest } = .fault .hostBusError ∧
      programStep { s with inputs := .bus (.write width off v) :: rest } = .fault .hostBusError

/-- 20_memory.md R64: what a 32-bit read of each offset answers, in either PHASE, and that it changes no state. -/
def Obligations.ReadAnswersRegister : Prop :=
  ∀ (s : State) (off : Offset),
    (off.toNat % 4 ≠ 0 → s.access (.read 4 off) = (s, .busError)) ∧
    (off.toNat % 4 = 0 → ∃ v : Word,
      s.access (.read 4 off) = (s, .data v) ∧
        (off = 0x000 → v = 0x544F5450) ∧ (off = 0x004 → v = 0x00010000) ∧
        (off = 0x008 → v.toNat = 256 * s.ie.toNat + s.alg.toNat) ∧
        (off = 0x00C → v.toNat = 65536 * s.herr.toNat + 256 * s.err.toNat + 4 * s.wbusy.toNat + 2 * s.done.toNat +
          (if s.phase = .busy then 1 else 0)) ∧
        (off = 0x010 → v = 0) ∧ (off = 0x014 → v = s.digits) ∧ (off = 0x018 → v.toNat = s.klen.toNat) ∧
        (off = 0x01C → v.toNat = s.dlen.toNat) ∧ (off = 0x020 → v = s.counter.extractLsb' 0 32) ∧
        (off = 0x024 → v = s.counter.extractLsb' 32 32) ∧ (off = 0x028 → v.toNat = s.trunc.toNat) ∧
        (off = 0x02C → v.toNat = s.offset.toNat) ∧ (off = 0x030 → v.toNat = s.codeLen.toNat) ∧
        (0x100 ≤ off.toNat → off.toNat < 0x180 → v = 0) ∧
        (∀ (k : Nat) (_ : k < 16), off.toNat = 0x200 + 4 * k →
          v = s.digest[4 * k] ++ s.digest[4 * k + 1] ++ s.digest[4 * k + 2] ++ s.digest[4 * k + 3]) ∧
        (∀ (k : Nat) (_ : k < 5), off.toNat = 0x300 + 4 * k →
          v = s.codeByte (4 * k) ++ s.codeByte (4 * k + 1) ++ s.codeByte (4 * k + 2) ++ s.codeByte (4 * k + 3)) ∧
        ((0x034 ≤ off.toNat ∧ off.toNat < 0x100) ∨ (0x180 ≤ off.toNat ∧ off.toNat < 0x200) ∨
          (0x240 ≤ off.toNat ∧ off.toNat < 0x300) ∨ 0x314 ≤ off.toNat → v = 0))

/-- 20_memory.md R65: what an aligned write to each register does while PHASE = IDLE. Everything not named is as it was. -/
def Obligations.IdleWriteSetsRegister : Prop :=
  ∀ (s : State) (v : Word), s.phase = .idle →
    s.memWrite 0x008 v = { s with alg := v.extractLsb' 0 4, ie := v.getLsbD 8 } ∧
    s.memWrite 0x010 v = { s with lcmd := v, phase := .busy, done := false, err := 0, herr := 0 } ∧
    s.memWrite 0x014 v = { s with digits := v } ∧ s.memWrite 0x018 v = { s with klen := v.extractLsb' 0 8 } ∧
    s.memWrite 0x01C v = { s with dlen := v.extractLsb' 0 7 } ∧ s.memWrite 0x020 v = { s with counterLo := v } ∧
    s.memWrite 0x024 v = { s with counterHi := v } ∧ s.memWrite 0x028 v = { s with trunc := v.extractLsb' 0 31 } ∧
    (∀ (off : Offset) (k : Nat), k < 32 → off.toNat = 0x100 + 4 * k →
      s.memWrite off v = { s with key := (s.memWrite off v).key } ∧
        ∀ (j : Nat) (h : j < 128), (s.memWrite off v).key[j] =
          if j / 4 = k then v.extractLsb' (24 - 8 * (j % 4)) 8 else s.key[j]) ∧
    (∀ (off : Offset) (k : Nat), k < 16 → off.toNat = 0x200 + 4 * k →
      s.memWrite off v = { s with digest := (s.memWrite off v).digest } ∧
        ∀ (j : Nat) (h : j < 64), (s.memWrite off v).digest[j] =
          if j / 4 = k then v.extractLsb' (24 - 8 * (j % 4)) 8 else s.digest[j])

/-- 20_memory.md R65, R66, 10_state.md R21, R32, R35, R36: while PHASE = IDLE a write to a read-only or unmapped offset changes
nothing. -/
def Obligations.IdleWriteToReadOnlyIsIgnored : Prop :=
  ∀ (s : State) (off : Offset) (v : Word), s.phase = .idle →
    off = 0x000 ∨ off = 0x004 ∨ off = 0x02C ∨ off = 0x030 ∨ (0x034 ≤ off.toNat ∧ off.toNat < 0x100) ∨
        (0x180 ≤ off.toNat ∧ off.toNat < 0x200) ∨ 0x240 ≤ off.toNat →
      s.memWrite off v = s

/-- 20_memory.md R65, 10_state.md R22, R29, R30, R33, R34: a register read back after a write of it while PHASE = IDLE answers the
bits it stores; reserved and hard-wired bits read 0, and KEY reads 0. -/
def Obligations.ReadBackKeepsStoredBits : Prop :=
  ∀ (s : State) (v : Word), s.phase = .idle →
    (s.memWrite 0x008 v).memRead 0x008 = v &&& 0x0000010F ∧ (s.memWrite 0x014 v).memRead 0x014 = v ∧
    (s.memWrite 0x018 v).memRead 0x018 = v &&& 0x000000FF ∧ (s.memWrite 0x01C v).memRead 0x01C = v &&& 0x0000007F ∧
    (s.memWrite 0x020 v).memRead 0x020 = v ∧ (s.memWrite 0x024 v).memRead 0x024 = v ∧
    (s.memWrite 0x028 v).memRead 0x028 = v &&& 0x7FFFFFFF ∧
    (∀ off : Offset, 0x100 ≤ off.toNat → off.toNat < 0x180 → (s.memWrite off v).memRead off = 0) ∧
    (∀ off : Offset, off.toNat % 4 = 0 → 0x200 ≤ off.toNat → off.toNat < 0x240 → (s.memWrite off v).memRead off = v)

/-- 20_memory.md R62, R65: no two offsets share storage: a write to one leaves the read of every other one alone but for STATUS,
which an accepted command and a write while busy change. -/
def Obligations.WriteLeavesOtherOffsets : Prop :=
  ∀ (s : State) (off₁ off₂ : Offset) (v : Word), off₁ ≠ off₂ → off₂ ≠ 0x00C →
    (s.memWrite off₁ v).memRead off₂ = s.memRead off₂

/-- 20_memory.md R67: byte 4k+j of a buffer is bits [31-8j : 24-8j] of word k, for reads of DIGEST and CODE, and CODE[19] reads
0x00 (10_state.md R32). -/
def Obligations.BufferWordsAreBigEndian : Prop :=
  ∀ (s : State) (off : Offset) (k j : Nat) (_ : j < 4),
    (∀ _ : k < 16, off.toNat = 0x200 + 4 * k →
      (s.memRead off).toNat / 256 ^ (3 - j) % 256 = s.digest[4 * k + j].toNat) ∧
    (∀ _ : 4 * k + j < 19, off.toNat = 0x300 + 4 * k →
      (s.memRead off).toNat / 256 ^ (3 - j) % 256 = s.code[4 * k + j].toNat) ∧
    (off.toNat = 0x310 → (s.memRead off).toNat % 256 = 0)

/-- 20_memory.md R65, 10_state.md R23: a write to STATUS in either PHASE clears DONE and WBUSY where bits 1 and 2 are 1, and has no
other effect. -/
def Obligations.StatusWriteClearsOnlyWrittenOnes : Prop :=
  ∀ (s : State) (v : Word),
    ∃ t, s.access (.write 4 0x00C v) = (t, .ok) ∧ t.done = (if v.getLsbD 1 then false else s.done) ∧
      t.wbusy = (if v.getLsbD 2 then false else s.wbusy) ∧ t = { s with done := t.done, wbusy := t.wbusy }

/-- 70_reset_and_hazards.md R241: while PHASE = BUSY every aligned host write to an offset other than STATUS is ignored and sets
WBUSY, which stays 1 until the host writes 1 to STATUS bit 2, or until reset. -/
def Obligations.BusyWriteIsIgnoredAndFlagSticks : Prop :=
  (∀ (s : State) (off : Offset) (v : Word), s.phase = .busy → off.toNat % 4 = 0 → off ≠ 0x00C →
    s.access (.write 4 off v) = ({ s with wbusy := true }, .ok)) ∧
    ∀ s t : State, s.wbusy = true → step s = .next t →
      t.wbusy = true ∨ (∃ rest, s.inputs = .rst :: rest) ∨
        ∃ (v : Word) (rest : List Input), s.inputs = .bus (.write 4 0x00C v) :: rest ∧ v.getLsbD 2 = true

/-- 20_memory.md R79, 70_reset_and_hazards.md R242: while a command is in flight no host access changes what any offset but
STATUS reads as, so every output reads as before the command until its completion. -/
def Obligations.OutputsReadOldWhileBusy : Prop :=
  ∀ (s : State) (a : BusAccess) (off : Offset), s.phase = .busy → off ≠ 0x00C →
    (s.access a).1.memRead off = s.memRead off ∧ (s.access a).1.phase = .busy

/-- 10_state.md R30: the host cannot tell two states apart that differ in KEY alone, whatever access it makes, and the states after
the access differ in KEY alone again. -/
def Obligations.KeyIsInvisibleToHost : Prop :=
  ∀ (s : State) (key : Vector Byte 128) (a : BusAccess),
    ({ s with key := key }.access a).2 = (s.access a).2 ∧ State.irq { s with key := key } = s.irq ∧
      ∃ key', ({ s with key := key }.access a).1 = { (s.access a).1 with key := key' }

/-- 10_state.md R30, 41_hmac.md R128: KEY changes only by a host write of a KEY word while PHASE = IDLE, by the
completion of CLEAR, or by reset. -/
def Obligations.KeyChangesOnlyByHostClearOrReset : Prop :=
  ∀ s t : State, step s = .next t → t.key ≠ s.key →
    (s.phase = .idle ∧ ∃ (off : Offset) (v : Word) (rest : List Input),
        s.inputs = .bus (.write 4 off v) :: rest ∧ 0x100 ≤ off.toNat ∧ off.toNat < 0x180) ∨
      (s.phase = .busy ∧ s.lcmd = 0x00000005 ∧ t.phase = .idle) ∨ ∃ rest, s.inputs = .rst :: rest

/-! ## Acceptance, the engine's turn and completion -/

/-- 60_exceptions.md R205, Accept: a CMD write while PHASE = IDLE latches the word, whatever it is. -/
def Obligations.CommandWriteIsAccepted : Prop :=
  ∀ (s : State) (v : Word), s.phase = .idle →
    s.access (.write 4 0x010 v) =
      ({ s with lcmd := v, phase := .busy, done := false, err := 0, herr := 0 }, .ok)

/-- 60_exceptions.md R205, Complete: when the latched word decodes to i, the engine's turn is exec i, and moving past the turn in
the schedule is all that step adds. The schedule is the model's (log 1). -/
def Obligations.StepRunsDecodedCommand : Prop :=
  ∀ (s : State) (i : Instr), s.phase = .busy → decode s.lcmd = .ok i →
    (∀ rest, s.inputs = .engine :: rest → step s = exec i { s with inputs := rest }) ∧
      (s.inputs = [] → step s = exec i s) ∧ (∀ rest, s.inputs = .poll 0 :: rest → step s = exec i s)

/-- 60_exceptions.md R202: an illegal word is accepted like any other, and its completion sets ERR = 1 and writes nothing else,
whatever the other inputs are. -/
def Obligations.IllegalWordCompletesWithIllegalCmd : Prop :=
  ∀ (s u : State) (rest : List Input) (v : Word), s.phase = .idle → v.toNat = 0 ∨ 6 ≤ v.toNat →
    u = (s.access (.write 4 0x010 v)).1 →
      u.phase = .busy ∧ u.lcmd = v ∧
        step { u with inputs := .engine :: rest } =
          .next { u with inputs := rest, phase := .idle, done := true, err := 1, herr := 0 }

/-- 60_exceptions.md R200, R205: nothing stops the block: every step of every state answers a next state. -/
def Obligations.StepAlwaysAnswersNext : Prop := ∀ s : State, ∃ t, step s = .next t

/-- 60_exceptions.md R205: every command's completion leaves BUSY = 0 and DONE = 1, and keeps CTRL, DIGITS, WBUSY and the hidden
LCMD (10_state.md R39). -/
def Obligations.CompletionUpdatesStatus : Prop :=
  ∀ (i : Instr) (s : State), ∃ t, exec i s = .next t ∧ t.phase = .idle ∧ t.done = true ∧ (t.err ≠ 8 → t.herr = 0) ∧
    t.wbusy = s.wbusy ∧ t.alg = s.alg ∧ t.ie = s.ie ∧ t.digits = s.digits ∧ t.lcmd = s.lcmd ∧ t.inputs = s.inputs ∧
      t.responses = s.responses

/-- 60_exceptions.md R204: a completion that ends in an error writes BUSY, DONE, ERR and HERR and nothing else, for an illegal
word too; and from before the acceptance to after the completion, whatever accesses the host makes between them, the only other
change is the latched word and WBUSY. -/
def Obligations.FailedCommandWritesOnlyStatus : Prop :=
  (∀ (s t : State) (rest : List Input), s.phase = .busy → s.inputs = .engine :: rest → step s = .next t → t.err ≠ 0 →
    t = { s with inputs := rest, phase := .idle, done := true, err := t.err, herr := t.herr }) ∧
    ∀ (s t : State) (v : Word) (accesses : List BusAccess) (rest : List Input), s.phase = .idle →
      Host.Core.run Sys2Proof.core (accesses.length + 2)
          { s with inputs := .bus (.write 4 0x010 v) :: (accesses.map Input.bus ++ .engine :: rest) } = .next t →
        t.err ≠ 0 →
          t = { s with lcmd := v, phase := .idle, done := true, wbusy := t.wbusy, err := t.err, herr := t.herr,
                       inputs := rest, responses := t.responses }

/-- 60_exceptions.md R206: retrying a failed command with the same inputs yields the same failure, and changes nothing but the
latched word. -/
def Obligations.RetryRepeatsTheError : Prop :=
  ∀ (i : Instr) (s t : State) (w : Word), exec i s = .next t → t.err ≠ 0 →
    exec i (t.memWrite 0x010 w) = .next { t with lcmd := w }

/-- 10_state.md R39: a command changes the read of no offset but STATUS and its own outputs. -/
def Obligations.CommandFrameOfTheWindow : Prop :=
  ∀ (i : Instr) (s t : State) (off : Offset), exec i s = .next t → ¬ mayChange i off → t.memRead off = s.memRead off

/-- 60_exceptions.md R210: irq = STATUS.DONE AND CTRL.IE; a completion raises it where IE = 1, and a write of 1 to STATUS bit 1, an
acceptance, a write of 0 to CTRL.IE and reset drop it; a CTRL write while BUSY = 1 is ignored; and the completion of a command is
the one source: no other step sets DONE. -/
def Obligations.IrqFollowsDoneAndEnable : Prop :=
  (∀ s : State, s.irq = true ↔ s.done = true ∧ s.ie = true) ∧
    (∀ (i : Instr) (s : State), ∃ t, exec i s = .next t ∧ t.irq = s.ie) ∧
      (∀ (s : State) (v : Word), v.getLsbD 1 = true → (s.memWrite 0x00C v).irq = false) ∧
        (∀ (s : State) (v : Word), s.phase = .idle → (s.memWrite 0x010 v).irq = false) ∧
          (∀ (s : State) (v : Word), s.phase = .idle → v.getLsbD 8 = false →
            (s.memWrite 0x008 v).irq = false ∧ (s.memWrite 0x008 v).done = s.done) ∧
            (∀ (s : State) (v : Word), s.phase = .busy → (s.memWrite 0x008 v).irq = s.irq ∧ (s.memWrite 0x008 v).ie = s.ie) ∧
              (∀ s : State, s.resetEvent.irq = false) ∧
                ∀ s t : State, step s = .next t → t.done = true → s.done = true ∨ (s.phase = .busy ∧ t.phase = .idle)

/-! ## HMAC -/

/-- 40_message_port.md R110: msg[i] is bits 63-8i : 56-8i of COUNTER, with COUNTER_HI the upper half. -/
def Obligations.MessageIsBigEndianCounter : Prop :=
  ∀ (s : State) (i : Nat) (_ : i < 8),
    s.message[i].toNat = (s.counterHi.toNat * 2 ^ 32 + s.counterLo.toNat) / 256 ^ (7 - i) % 256

/-- 40_message_port.md R112: reading the message back big-endian gives the counter, so two counters give two messages. -/
def Obligations.MessageRoundTrip : Prop :=
  (∀ c : BitVec 64, beNat (be8 c).toList = c.toNat) ∧ ∀ c d : BitVec 64, be8 c = be8 d → c = d

/-- 41_hmac.md R124, R125, R126: HMAC with every input check met. On Ok it stores the digest, zero past L, and L in DLEN; on Fail
it passes the code on and writes nothing else. KEY, COUNTER and every other register are as they were. -/
def Obligations.HmacStoresDigest : Prop :=
  ∀ (s : State) (desc : AlgDesc), platform.table s.alg = some desc → 1 ≤ s.klen.toNat → s.klen.toNat ≤ 128 →
    ∃ t, exec .hmac s = .next t ∧
      match platform.hash s.alg (s.key.toList.take s.klen.toNat) s.message with
      | .ok digest =>
        (∀ (j : Nat) (_ : j < 64), t.digest[j] = if j < desc.L then digest.getD j 0 else 0) ∧
          t.dlen.toNat = desc.L ∧
            t = { s with digest := t.digest, dlen := t.dlen, phase := .idle, done := true, err := 0, herr := 0 }
      | .fail c => t = { s with phase := .idle, done := true, err := 8, herr := c }

/-- 41_hmac.md R124, 60_exceptions.md R203: HMAC's input errors, the first that applies: BAD_ALG, INVALID_SECRET, KEY_LEN. -/
def Obligations.HmacReportsFirstInputError : Prop :=
  ∀ s : State,
    match platform.table s.alg with
    | none => exec .hmac s = .next { s with phase := .idle, done := true, err := 2, herr := 0 }
    | some _ =>
      (s.klen.toNat = 0 → exec .hmac s = .next { s with phase := .idle, done := true, err := 4, herr := 0 }) ∧
        (128 < s.klen.toNat → exec .hmac s = .next { s with phase := .idle, done := true, err := 5, herr := 0 })

/-- 41_hmac.md R127, 44_sequencer.md R182: an input error never reaches the primitive: with an input error the outcome is the same
for any two primitives over one ALG_TABLE. -/
def Obligations.InputErrorsNeverReachPrimitive : Prop :=
  ∀ (p q : Primitive) (s : State), p.table = q.table →
    (p.table s.alg = none ∨ s.klen.toNat = 0 ∨ 128 < s.klen.toNat → runHmac p s = runHmac q s) ∧
      (p.table s.alg = none ∨ s.klen.toNat = 0 ∨ 128 < s.klen.toNat ∨ s.digits.toNat = 0 ∨ 19 < s.digits.toNat →
        runGenerate p s = runGenerate q s)

/-- 41_hmac.md R123: the bytes KEY[KLEN..127] affect no result of any command. -/
def Obligations.KeyBytesPastKlenAreNotUsed : Prop :=
  ∀ (i : Instr) (s : State) (key : Vector Byte 128),
    (∀ (j : Nat) (_ : j < 128), j < s.klen.toNat → key[j] = s.key[j]) →
      ∃ (t : State) (key' : Vector Byte 128), exec i s = .next t ∧ exec i { s with key := key } = .next { t with key := key' }

/-! ## TRUNC -/

/-- 42_truncation_selector.md R143, R145: TRUNC on a digest of sufficient length: OFFSET takes the low nibble of the final
byte, TRUNC the 31-bit big-endian window, and nothing but STATUS changes beside them. -/
def Obligations.TruncSelectsWindow : Prop :=
  ∀ (s : State) (off : Nat) (_ : 1 ≤ s.dlen.toNat) (_ : s.dlen.toNat ≤ 64) (_ : off = s.digest[s.dlen.toNat - 1].toNat % 16)
    (_ : off + 4 ≤ s.dlen.toNat),
      ∃ t, exec .trunc s = .next t ∧ t.offset.toNat = off ∧
        t.trunc.toNat = s.digest[off].toNat % 128 * 2 ^ 24 + s.digest[off + 1].toNat * 2 ^ 16 +
          s.digest[off + 2].toNat * 2 ^ 8 + s.digest[off + 3].toNat ∧
        t = { s with offset := t.offset, trunc := t.trunc, phase := .idle, done := true, err := 0, herr := 0 }

/-- 42_truncation_selector.md R141, R144: TRUNC's errors, the first that applies: BAD_DIGEST_LEN, SHORT_DIGEST. -/
def Obligations.TruncReportsFirstError : Prop :=
  ∀ s : State,
    (s.dlen.toNat = 0 ∨ 64 < s.dlen.toNat →
      exec .trunc s = .next { s with phase := .idle, done := true, err := 6, herr := 0 }) ∧
    (∀ (_ : 1 ≤ s.dlen.toNat) (_ : s.dlen.toNat ≤ 64), s.dlen.toNat < s.digest[s.dlen.toNat - 1].toNat % 16 + 4 →
      exec .trunc s = .next { s with phase := .idle, done := true, err := 7, herr := 0 })

/-- 42_truncation_selector.md R146: only DIGEST[DLEN-1] and the window it selects affect the result. -/
def Obligations.TruncReadsOnlyWindowAndLastByte : Prop :=
  ∀ (s : State) (digest : Vector Byte 64) (_ : 1 ≤ s.dlen.toNat) (_ : s.dlen.toNat ≤ 64),
    digest[s.dlen.toNat - 1] = s.digest[s.dlen.toNat - 1] →
    (∀ (j : Nat) (_ : j < 64), s.digest[s.dlen.toNat - 1].toNat % 16 ≤ j →
      j < s.digest[s.dlen.toNat - 1].toNat % 16 + 4 → digest[j] = s.digest[j]) →
      ∃ t, exec .trunc s = .next t ∧ exec .trunc { s with digest := digest } = .next { t with digest := digest }

/-! ## FORMAT -/

/-- 43_modulo_formatter.md R162: pow10 is the mathematical power of ten: no intermediate product wraps. -/
def Obligations.Pow10IsExact : Prop := ∀ d : Nat, d ≤ 19 → (pow10 d).toNat = 10 ^ d

/-- 43_modulo_formatter.md R161, R163, R166: FORMAT with 1 ≤ DIGITS ≤ 19: CODE[j] is the decimal digit of TRUNC mod 10^DIGITS at
its place, the rest of CODE is 0x00, CODE_LEN is DIGITS, and nothing but STATUS changes beside them. -/
def Obligations.FormatRendersDecimal : Prop :=
  ∀ s : State, 1 ≤ s.digits.toNat → s.digits.toNat ≤ 19 →
    ∃ t, exec .format s = .next t ∧ t.codeLen.toNat = s.digits.toNat ∧
      (∀ j : Nat, (t.codeByte j).toNat =
        if j < s.digits.toNat then
          0x30 + s.trunc.toNat % 10 ^ s.digits.toNat / 10 ^ (s.digits.toNat - 1 - j) % 10
        else 0) ∧
      t = { s with code := t.code, codeLen := t.codeLen, phase := .idle, done := true, err := 0, herr := 0 }

/-- 43_modulo_formatter.md R164: DIGITS = 0 or DIGITS > 19 fails with INVALID_DIGITS and writes nothing else. -/
def Obligations.FormatRejectsDigits : Prop :=
  ∀ s : State, s.digits.toNat = 0 ∨ 19 < s.digits.toNat →
    exec .format s = .next { s with phase := .idle, done := true, err := 3, herr := 0 }

/-- 43_modulo_formatter.md R165, R167: the characters of a successful FORMAT, read as a decimal numeral, are TRUNC mod 10^DIGITS,
which is TRUNC itself from 10 digits on. -/
def Obligations.CodeReadsAsTruncModulo : Prop :=
  ∀ s : State, 1 ≤ s.digits.toNat → s.digits.toNat ≤ 19 →
    ∃ t, exec .format s = .next t ∧
      (t.code.toList.take t.codeLen.toNat).foldl (fun n b => 10 * n + (b.toNat - 0x30)) 0 =
          s.trunc.toNat % 10 ^ s.digits.toNat ∧
        (10 ≤ s.digits.toNat →
          (t.code.toList.take t.codeLen.toNat).foldl (fun n b => 10 * n + (b.toNat - 0x30)) 0 = s.trunc.toNat)

/-! ## GENERATE and CLEAR -/

/-- 44_sequencer.md R181: GENERATE with every input check met. On Ok it stores digest, length, offset, truncated value, code and
code length; on Fail it passes the code on and writes nothing else. -/
def Obligations.GenerateStoresAllStages : Prop :=
  ∀ (s : State) (desc : AlgDesc), platform.table s.alg = some desc → 1 ≤ s.klen.toNat → s.klen.toNat ≤ 128 →
    1 ≤ s.digits.toNat → s.digits.toNat ≤ 19 →
      ∃ t, exec .generate s = .next t ∧
        match platform.hash s.alg (s.key.toList.take s.klen.toNat) s.message with
        | .ok digest =>
          (∀ (j : Nat) (_ : j < 64), t.digest[j] = if j < desc.L then digest.getD j 0 else 0) ∧
            t.dlen.toNat = desc.L ∧ t.offset.toNat = (digest.getD (desc.L - 1) 0).toNat % 16 ∧
            t.trunc.toNat = (digest.getD t.offset.toNat 0).toNat % 128 * 2 ^ 24 +
              (digest.getD (t.offset.toNat + 1) 0).toNat * 2 ^ 16 + (digest.getD (t.offset.toNat + 2) 0).toNat * 2 ^ 8 +
                (digest.getD (t.offset.toNat + 3) 0).toNat ∧
            t.codeLen.toNat = s.digits.toNat ∧
            (∀ j : Nat, (t.codeByte j).toNat =
              if j < s.digits.toNat then
                0x30 + t.trunc.toNat % 10 ^ s.digits.toNat / 10 ^ (s.digits.toNat - 1 - j) % 10
              else 0) ∧
            t = { s with digest := t.digest, dlen := t.dlen, offset := t.offset, trunc := t.trunc, code := t.code,
                         codeLen := t.codeLen, phase := .idle, done := true, err := 0, herr := 0 }
        | .fail c => t = { s with phase := .idle, done := true, err := 8, herr := c }

/-- 44_sequencer.md R181, 60_exceptions.md R203: GENERATE's input errors, the first that applies: BAD_ALG, INVALID_DIGITS,
INVALID_SECRET, KEY_LEN. -/
def Obligations.GenerateReportsFirstInputError : Prop :=
  ∀ s : State,
    match platform.table s.alg with
    | none => exec .generate s = .next { s with phase := .idle, done := true, err := 2, herr := 0 }
    | some _ =>
      (s.digits.toNat = 0 ∨ 19 < s.digits.toNat →
        exec .generate s = .next { s with phase := .idle, done := true, err := 3, herr := 0 }) ∧
      (1 ≤ s.digits.toNat → s.digits.toNat ≤ 19 → s.klen.toNat = 0 →
        exec .generate s = .next { s with phase := .idle, done := true, err := 4, herr := 0 }) ∧
      (1 ≤ s.digits.toNat → s.digits.toNat ≤ 19 → 128 < s.klen.toNat →
        exec .generate s = .next { s with phase := .idle, done := true, err := 5, herr := 0 })

/-- 44_sequencer.md R183: with every input check met, GENERATE ends in the same state as HMAC, TRUNC and FORMAT run one after
another: when HMAC succeeds so do the other two, and when the primitive fails GENERATE fails as HMAC does. -/
def Obligations.GenerateIsTheComposition : Prop :=
  ∀ (s : State) (desc : AlgDesc), platform.table s.alg = some desc → 1 ≤ s.klen.toNat → s.klen.toNat ≤ 128 →
    1 ≤ s.digits.toNat → s.digits.toNat ≤ 19 →
      ∃ s₁, exec .hmac s = .next s₁ ∧
        (s₁.err = 0 → ∃ s₂ s₃, exec .trunc s₁ = .next s₂ ∧ s₂.err = 0 ∧ exec .format s₂ = .next s₃ ∧ s₃.err = 0 ∧
          exec .generate s = .next s₃) ∧
        (s₁.err ≠ 0 → exec .generate s = .next s₁)

/-- 44_sequencer.md R185: two GENERATE completions with equal ALG, KLEN, KEY[0..KLEN-1], COUNTER and DIGITS write equal ERR and
HERR, and equal outputs when they succeed. -/
def Obligations.GenerateIsDeterministic : Prop :=
  ∀ s s' : State, s.alg = s'.alg → s.klen = s'.klen → (∀ (j : Nat) (_ : j < 128), j < s.klen.toNat → s.key[j] = s'.key[j]) →
    s.counterHi = s'.counterHi → s.counterLo = s'.counterLo → s.digits = s'.digits →
      ∃ t t', exec .generate s = .next t ∧ exec .generate s' = .next t' ∧ t.err = t'.err ∧ t.herr = t'.herr ∧
        (t.err = 0 → t.digest = t'.digest ∧ t.dlen = t'.dlen ∧ t.offset = t'.offset ∧ t.trunc = t'.trunc ∧
          t.code = t'.code ∧ t.codeLen = t'.codeLen)

/-- 44_sequencer.md R182: the only errors of GENERATE are its four input errors and HASH_FAIL. -/
def Obligations.GenerateErrorsAreInputOrHashFail : Prop :=
  ∀ s : State, ∃ t, exec .generate s = .next t ∧
    (t.err = 0 ∨ t.err = 2 ∨ t.err = 3 ∨ t.err = 4 ∨ t.err = 5 ∨ t.err = 8)

/-- 44_sequencer.md R190: CLEAR zeroes every data register and buffer, keeps CTRL, DIGITS and WBUSY, and succeeds. -/
def Obligations.ClearZeroesData : Prop :=
  ∀ s : State, ∃ t, exec .clear s = .next t ∧ (∀ (j : Nat) (_ : j < 128), t.key[j] = 0) ∧
    (∀ (j : Nat) (_ : j < 64), t.digest[j] = 0) ∧ (∀ j : Nat, t.codeByte j = 0) ∧
      t = { s with key := t.key, digest := t.digest, code := t.code, klen := 0, dlen := 0, counterLo := 0, counterHi := 0,
                   trunc := 0, offset := 0, codeLen := 0, phase := .idle, done := true, err := 0, herr := 0 }

/-! ## The whole machine -/

/-- 60_exceptions.md R205, R214, 10_state.md R23, R36, 43_modulo_formatter.md R166: every step keeps the invariant. -/
def Obligations.EveryStepKeepsInvariant : Prop := ∀ s t : State, s.Inv → step s = .next t → t.Inv

/-- The reset state meets the invariant (10_state.md R40). -/
def Obligations.ResetMeetsInvariant : Prop := State.reset.Inv

/-- 70_reset_and_hazards.md R240: whatever aligned or malformed accesses the host makes between acceptance and completion, the
completion writes what it would have written at once; only WBUSY and the host's own record can differ. -/
def Obligations.CompletionIgnoresHostAccesses : Prop :=
  ∀ (s : State) (accesses : List BusAccess) (rest : List Input), s.phase = .busy →
    ∃ t t', step { s with inputs := .engine :: rest } = .next t ∧
      Host.Core.run Sys2Proof.core (accesses.length + 1)
          { s with inputs := accesses.map Input.bus ++ .engine :: rest } = .next t' ∧
        t' = { t with wbusy := t'.wbusy, responses := t'.responses }

/-- 70_reset_and_hazards.md R250: a command in flight is over after finitely many steps, at most as many as the schedule holds and
one more. That the schedule is a finite list is the model's (log 10). -/
def Obligations.CommandInFlightCompletes : Prop :=
  ∀ s : State, s.phase = .busy →
    ∃ (k : Nat) (t : State), k ≤ s.stepsLeft ∧ Host.Core.run Sys2Proof.core k s = .next t ∧ t.phase = .idle

/-- 30_encoding.md R102: `poll` after an acceptance ends with a STATUS value that has BUSY = 0, DONE = 1 and the command's ERR and
HERR, whatever number of its reads see BUSY = 1. The number as data of the event is the model's (log 11). -/
def Obligations.PollEndsWithCompletedStatus : Prop :=
  ∀ (s : State) (reads : Nat) (rest : List Input), s.phase = .busy → s.inputs = .poll reads :: rest →
    ∃ t u : State, step { s with inputs := .engine :: rest } = .next t ∧
      Host.Core.run Sys2Proof.core (reads + 2) s = .next u ∧
        (∃ (v : Word) (earlier : List Response), u.responses = .data v :: earlier ∧ v.getLsbD 0 = false ∧
          v.getLsbD 1 = true ∧ v.extractLsb' 8 4 = t.err ∧ v.extractLsb' 16 8 = t.herr) ∧
          u = { t with responses := u.responses }

/-- 70_reset_and_hazards.md R252, 60_exceptions.md R225: an idle block with no host access left stays so, answers nothing more,
and holds everything as it stands but for a reset event. That each event is a step of its own, and so is the end of the
schedule, is the model's (log 1). -/
def Obligations.EndedRunHoldsState : Prop :=
  ∀ s : State, s.runEnded →
    ∃ t, step s = .next t ∧ t.runEnded ∧ t.inputs = s.inputs.tail ∧ t.responses = s.responses ∧
      (s.inputs.head? ≠ some .rst → t = { s with inputs := t.inputs }) ∧
        (s.inputs.head? = some .rst → t = { State.reset with inputs := t.inputs, responses := t.responses })

/-! ## The host's assembly -/

/-- 30_encoding.md R103: `ldkey` on an idle block sets KLEN to the number of bytes and KEY to the bytes, with 0x00 up to the next
whole word and every later byte of KEY as it was (70_reset_and_hazards.md R246). -/
def Obligations.LdkeyLoadsKey : Prop :=
  ∀ (s : State) (bytes : List Byte), s.phase = .idle → 1 ≤ bytes.length → bytes.length ≤ 128 →
    ∃ t, (ldkeyAccesses bytes).foldl (fun u a => (u.access a).1) s = t ∧ t.klen.toNat = bytes.length ∧
      (∀ (j : Nat) (_ : j < 128), t.key[j] =
        if j < (bytes.length + 3) / 4 * 4 then bytes.getD j 0 else s.key[j]) ∧
      t = { s with klen := t.klen, key := t.key }

/-- 30_encoding.md R104: `lddgst` on an idle block sets DLEN to the number of bytes and DIGEST to the bytes, with 0x00 up to the
next whole word; `ldctr` sets COUNTER. -/
def Obligations.LddgstAndLdctrLoad : Prop :=
  ∀ s : State, s.phase = .idle →
    (∀ bytes : List Byte, 1 ≤ bytes.length → bytes.length ≤ 64 →
      ∃ t, (lddgstAccesses bytes).foldl (fun u a => (u.access a).1) s = t ∧ t.dlen.toNat = bytes.length ∧
        (∀ (j : Nat) (_ : j < 64), t.digest[j] =
          if j < (bytes.length + 3) / 4 * 4 then bytes.getD j 0 else s.digest[j]) ∧
        t = { s with dlen := t.dlen, digest := t.digest }) ∧
    (∀ n : BitVec 64, ∃ t, (ldctrAccesses n).foldl (fun u a => (u.access a).1) s = t ∧ t.counter = n ∧
      t = { s with counterHi := t.counterHi, counterLo := t.counterLo })

/-- 44_sequencer.md R184: `generate_custom` on an idle block. With every argument in range it gives the code, DIGITS characters
that read as the 31-bit window of the digest modulo 10^DIGITS, or HASH_FAIL with the primitive's code; DIGITS out of range gives
INVALID_DIGITS; and a Step of 0 sends nothing to the block (log 20). -/
def Obligations.GenerateCustomReturnsCode : Prop :=
  ∀ (s : State) (reads step : Nat) (alg : BitVec 4) (ie : Bool) (digits : Word) (secret : List Byte) (time : BitVec 64)
    (desc : AlgDesc), s.phase = .idle → platform.table alg = some desc → 1 ≤ secret.length → secret.length ≤ 128 →
      (step = 0 → hostGenerateCustom reads alg ie step digits secret time s = .next (.zeroStep, s)) ∧
      (1 ≤ step → digits.toNat = 0 ∨ 19 < digits.toNat →
        ∃ t, hostGenerateCustom reads alg ie step digits secret time s = .next (.failed 3 0, t)) ∧
      (1 ≤ step → 1 ≤ digits.toNat → digits.toNat ≤ 19 →
        ∃ r t, hostGenerateCustom reads alg ie step digits secret time s = .next (r, t) ∧
          match platform.hash alg secret (be8 (BitVec.ofNat 64 (time.toNat / step))) with
          | .ok digest => ∃ (chars : List Byte) (off window : Nat), r = .code chars ∧
              off = (digest.getD (desc.L - 1) 0).toNat % 16 ∧
              window = (digest.getD off 0).toNat % 128 * 2 ^ 24 + (digest.getD (off + 1) 0).toNat * 2 ^ 16 +
                (digest.getD (off + 2) 0).toNat * 2 ^ 8 + (digest.getD (off + 3) 0).toNat ∧
              chars.length = digits.toNat ∧ (∀ b ∈ chars, 0x30 ≤ b.toNat ∧ b.toNat ≤ 0x39) ∧
              chars.foldl (fun n b => 10 * n + (b.toNat - 0x30)) 0 = window % 10 ^ digits.toNat
          | .fail c => r = .failed 8 c)
end

