-- ==== Sys2Proof/Laws/State.lean ====
section
/-! SUPPORT. Every field after every update of the block's state: one lemma per field per update, so that no proof unfolds a
record update. -/

namespace Sys2Proof.Machine

variable (s : State)

/-! ## finish -/

@[simp] theorem finish_alg (e : BitVec 4) (h : Byte) : (s.finish e h).alg = s.alg := rfl
@[simp] theorem finish_ie (e : BitVec 4) (h : Byte) : (s.finish e h).ie = s.ie := rfl
@[simp] theorem finish_phase (e : BitVec 4) (h : Byte) : (s.finish e h).phase = .idle := rfl
@[simp] theorem finish_done (e : BitVec 4) (h : Byte) : (s.finish e h).done = true := rfl
@[simp] theorem finish_wbusy (e : BitVec 4) (h : Byte) : (s.finish e h).wbusy = s.wbusy := rfl
@[simp] theorem finish_err (e : BitVec 4) (h : Byte) : (s.finish e h).err = e := rfl
@[simp] theorem finish_herr (e : BitVec 4) (h : Byte) : (s.finish e h).herr = h := rfl
@[simp] theorem finish_digits (e : BitVec 4) (h : Byte) : (s.finish e h).digits = s.digits := rfl
@[simp] theorem finish_klen (e : BitVec 4) (h : Byte) : (s.finish e h).klen = s.klen := rfl
@[simp] theorem finish_dlen (e : BitVec 4) (h : Byte) : (s.finish e h).dlen = s.dlen := rfl
@[simp] theorem finish_counterLo (e : BitVec 4) (h : Byte) : (s.finish e h).counterLo = s.counterLo := rfl
@[simp] theorem finish_counterHi (e : BitVec 4) (h : Byte) : (s.finish e h).counterHi = s.counterHi := rfl
@[simp] theorem finish_trunc (e : BitVec 4) (h : Byte) : (s.finish e h).trunc = s.trunc := rfl
@[simp] theorem finish_offset (e : BitVec 4) (h : Byte) : (s.finish e h).offset = s.offset := rfl
@[simp] theorem finish_codeLen (e : BitVec 4) (h : Byte) : (s.finish e h).codeLen = s.codeLen := rfl
@[simp] theorem finish_key (e : BitVec 4) (h : Byte) : (s.finish e h).key = s.key := rfl
@[simp] theorem finish_digest (e : BitVec 4) (h : Byte) : (s.finish e h).digest = s.digest := rfl
@[simp] theorem finish_code (e : BitVec 4) (h : Byte) : (s.finish e h).code = s.code := rfl
@[simp] theorem finish_lcmd (e : BitVec 4) (h : Byte) : (s.finish e h).lcmd = s.lcmd := rfl
@[simp] theorem finish_inputs (e : BitVec 4) (h : Byte) : (s.finish e h).inputs = s.inputs := rfl
@[simp] theorem finish_responses (e : BitVec 4) (h : Byte) : (s.finish e h).responses = s.responses := rfl

/-! ## failWith -/

@[simp] theorem failWith_alg (e : CmdError) : (s.failWith e).alg = s.alg := rfl
@[simp] theorem failWith_ie (e : CmdError) : (s.failWith e).ie = s.ie := rfl
@[simp] theorem failWith_phase (e : CmdError) : (s.failWith e).phase = .idle := rfl
@[simp] theorem failWith_done (e : CmdError) : (s.failWith e).done = true := rfl
@[simp] theorem failWith_wbusy (e : CmdError) : (s.failWith e).wbusy = s.wbusy := rfl
@[simp] theorem failWith_err (e : CmdError) : (s.failWith e).err = e.errCode := rfl
@[simp] theorem failWith_herr (e : CmdError) : (s.failWith e).herr = e.herrCode := rfl
@[simp] theorem failWith_digits (e : CmdError) : (s.failWith e).digits = s.digits := rfl
@[simp] theorem failWith_klen (e : CmdError) : (s.failWith e).klen = s.klen := rfl
@[simp] theorem failWith_dlen (e : CmdError) : (s.failWith e).dlen = s.dlen := rfl
@[simp] theorem failWith_counterLo (e : CmdError) : (s.failWith e).counterLo = s.counterLo := rfl
@[simp] theorem failWith_counterHi (e : CmdError) : (s.failWith e).counterHi = s.counterHi := rfl
@[simp] theorem failWith_trunc (e : CmdError) : (s.failWith e).trunc = s.trunc := rfl
@[simp] theorem failWith_offset (e : CmdError) : (s.failWith e).offset = s.offset := rfl
@[simp] theorem failWith_codeLen (e : CmdError) : (s.failWith e).codeLen = s.codeLen := rfl
@[simp] theorem failWith_key (e : CmdError) : (s.failWith e).key = s.key := rfl
@[simp] theorem failWith_digest (e : CmdError) : (s.failWith e).digest = s.digest := rfl
@[simp] theorem failWith_code (e : CmdError) : (s.failWith e).code = s.code := rfl
@[simp] theorem failWith_lcmd (e : CmdError) : (s.failWith e).lcmd = s.lcmd := rfl
@[simp] theorem failWith_inputs (e : CmdError) : (s.failWith e).inputs = s.inputs := rfl
@[simp] theorem failWith_responses (e : CmdError) : (s.failWith e).responses = s.responses := rfl

/-! ## accept -/

@[simp] theorem accept_alg (v : Word) : (s.accept v).alg = s.alg := rfl
@[simp] theorem accept_ie (v : Word) : (s.accept v).ie = s.ie := rfl
@[simp] theorem accept_phase (v : Word) : (s.accept v).phase = .busy := rfl
@[simp] theorem accept_done (v : Word) : (s.accept v).done = false := rfl
@[simp] theorem accept_wbusy (v : Word) : (s.accept v).wbusy = s.wbusy := rfl
@[simp] theorem accept_err (v : Word) : (s.accept v).err = 0 := rfl
@[simp] theorem accept_herr (v : Word) : (s.accept v).herr = 0 := rfl
@[simp] theorem accept_digits (v : Word) : (s.accept v).digits = s.digits := rfl
@[simp] theorem accept_klen (v : Word) : (s.accept v).klen = s.klen := rfl
@[simp] theorem accept_dlen (v : Word) : (s.accept v).dlen = s.dlen := rfl
@[simp] theorem accept_counterLo (v : Word) : (s.accept v).counterLo = s.counterLo := rfl
@[simp] theorem accept_counterHi (v : Word) : (s.accept v).counterHi = s.counterHi := rfl
@[simp] theorem accept_trunc (v : Word) : (s.accept v).trunc = s.trunc := rfl
@[simp] theorem accept_offset (v : Word) : (s.accept v).offset = s.offset := rfl
@[simp] theorem accept_codeLen (v : Word) : (s.accept v).codeLen = s.codeLen := rfl
@[simp] theorem accept_key (v : Word) : (s.accept v).key = s.key := rfl
@[simp] theorem accept_digest (v : Word) : (s.accept v).digest = s.digest := rfl
@[simp] theorem accept_code (v : Word) : (s.accept v).code = s.code := rfl
@[simp] theorem accept_lcmd (v : Word) : (s.accept v).lcmd = v := rfl
@[simp] theorem accept_inputs (v : Word) : (s.accept v).inputs = s.inputs := rfl
@[simp] theorem accept_responses (v : Word) : (s.accept v).responses = s.responses := rfl

/-! ## writeStatus -/

@[simp] theorem writeStatus_alg (v : Word) : (s.writeStatus v).alg = s.alg := rfl
@[simp] theorem writeStatus_ie (v : Word) : (s.writeStatus v).ie = s.ie := rfl
@[simp] theorem writeStatus_phase (v : Word) : (s.writeStatus v).phase = s.phase := rfl
@[simp] theorem writeStatus_done (v : Word) : (s.writeStatus v).done = (s.done && !v.getLsbD 1) := rfl
@[simp] theorem writeStatus_wbusy (v : Word) : (s.writeStatus v).wbusy = (s.wbusy && !v.getLsbD 2) := rfl
@[simp] theorem writeStatus_err (v : Word) : (s.writeStatus v).err = s.err := rfl
@[simp] theorem writeStatus_herr (v : Word) : (s.writeStatus v).herr = s.herr := rfl
@[simp] theorem writeStatus_digits (v : Word) : (s.writeStatus v).digits = s.digits := rfl
@[simp] theorem writeStatus_klen (v : Word) : (s.writeStatus v).klen = s.klen := rfl
@[simp] theorem writeStatus_dlen (v : Word) : (s.writeStatus v).dlen = s.dlen := rfl
@[simp] theorem writeStatus_counterLo (v : Word) : (s.writeStatus v).counterLo = s.counterLo := rfl
@[simp] theorem writeStatus_counterHi (v : Word) : (s.writeStatus v).counterHi = s.counterHi := rfl
@[simp] theorem writeStatus_trunc (v : Word) : (s.writeStatus v).trunc = s.trunc := rfl
@[simp] theorem writeStatus_offset (v : Word) : (s.writeStatus v).offset = s.offset := rfl
@[simp] theorem writeStatus_codeLen (v : Word) : (s.writeStatus v).codeLen = s.codeLen := rfl
@[simp] theorem writeStatus_key (v : Word) : (s.writeStatus v).key = s.key := rfl
@[simp] theorem writeStatus_digest (v : Word) : (s.writeStatus v).digest = s.digest := rfl
@[simp] theorem writeStatus_code (v : Word) : (s.writeStatus v).code = s.code := rfl
@[simp] theorem writeStatus_lcmd (v : Word) : (s.writeStatus v).lcmd = s.lcmd := rfl
@[simp] theorem writeStatus_inputs (v : Word) : (s.writeStatus v).inputs = s.inputs := rfl
@[simp] theorem writeStatus_responses (v : Word) : (s.writeStatus v).responses = s.responses := rfl

/-! ## noteBusyWrite -/

@[simp] theorem noteBusyWrite_alg : (s.noteBusyWrite).alg = s.alg := rfl
@[simp] theorem noteBusyWrite_ie : (s.noteBusyWrite).ie = s.ie := rfl
@[simp] theorem noteBusyWrite_phase : (s.noteBusyWrite).phase = s.phase := rfl
@[simp] theorem noteBusyWrite_done : (s.noteBusyWrite).done = s.done := rfl
@[simp] theorem noteBusyWrite_wbusy : (s.noteBusyWrite).wbusy = true := rfl
@[simp] theorem noteBusyWrite_err : (s.noteBusyWrite).err = s.err := rfl
@[simp] theorem noteBusyWrite_herr : (s.noteBusyWrite).herr = s.herr := rfl
@[simp] theorem noteBusyWrite_digits : (s.noteBusyWrite).digits = s.digits := rfl
@[simp] theorem noteBusyWrite_klen : (s.noteBusyWrite).klen = s.klen := rfl
@[simp] theorem noteBusyWrite_dlen : (s.noteBusyWrite).dlen = s.dlen := rfl
@[simp] theorem noteBusyWrite_counterLo : (s.noteBusyWrite).counterLo = s.counterLo := rfl
@[simp] theorem noteBusyWrite_counterHi : (s.noteBusyWrite).counterHi = s.counterHi := rfl
@[simp] theorem noteBusyWrite_trunc : (s.noteBusyWrite).trunc = s.trunc := rfl
@[simp] theorem noteBusyWrite_offset : (s.noteBusyWrite).offset = s.offset := rfl
@[simp] theorem noteBusyWrite_codeLen : (s.noteBusyWrite).codeLen = s.codeLen := rfl
@[simp] theorem noteBusyWrite_key : (s.noteBusyWrite).key = s.key := rfl
@[simp] theorem noteBusyWrite_digest : (s.noteBusyWrite).digest = s.digest := rfl
@[simp] theorem noteBusyWrite_code : (s.noteBusyWrite).code = s.code := rfl
@[simp] theorem noteBusyWrite_lcmd : (s.noteBusyWrite).lcmd = s.lcmd := rfl
@[simp] theorem noteBusyWrite_inputs : (s.noteBusyWrite).inputs = s.inputs := rfl
@[simp] theorem noteBusyWrite_responses : (s.noteBusyWrite).responses = s.responses := rfl

/-! ## writeCtrl -/

@[simp] theorem writeCtrl_alg (v : Word) : (s.writeCtrl v).alg = v.extractLsb' 0 4 := rfl
@[simp] theorem writeCtrl_ie (v : Word) : (s.writeCtrl v).ie = v.getLsbD 8 := rfl
@[simp] theorem writeCtrl_phase (v : Word) : (s.writeCtrl v).phase = s.phase := rfl
@[simp] theorem writeCtrl_done (v : Word) : (s.writeCtrl v).done = s.done := rfl
@[simp] theorem writeCtrl_wbusy (v : Word) : (s.writeCtrl v).wbusy = s.wbusy := rfl
@[simp] theorem writeCtrl_err (v : Word) : (s.writeCtrl v).err = s.err := rfl
@[simp] theorem writeCtrl_herr (v : Word) : (s.writeCtrl v).herr = s.herr := rfl
@[simp] theorem writeCtrl_digits (v : Word) : (s.writeCtrl v).digits = s.digits := rfl
@[simp] theorem writeCtrl_klen (v : Word) : (s.writeCtrl v).klen = s.klen := rfl
@[simp] theorem writeCtrl_dlen (v : Word) : (s.writeCtrl v).dlen = s.dlen := rfl
@[simp] theorem writeCtrl_counterLo (v : Word) : (s.writeCtrl v).counterLo = s.counterLo := rfl
@[simp] theorem writeCtrl_counterHi (v : Word) : (s.writeCtrl v).counterHi = s.counterHi := rfl
@[simp] theorem writeCtrl_trunc (v : Word) : (s.writeCtrl v).trunc = s.trunc := rfl
@[simp] theorem writeCtrl_offset (v : Word) : (s.writeCtrl v).offset = s.offset := rfl
@[simp] theorem writeCtrl_codeLen (v : Word) : (s.writeCtrl v).codeLen = s.codeLen := rfl
@[simp] theorem writeCtrl_key (v : Word) : (s.writeCtrl v).key = s.key := rfl
@[simp] theorem writeCtrl_digest (v : Word) : (s.writeCtrl v).digest = s.digest := rfl
@[simp] theorem writeCtrl_code (v : Word) : (s.writeCtrl v).code = s.code := rfl
@[simp] theorem writeCtrl_lcmd (v : Word) : (s.writeCtrl v).lcmd = s.lcmd := rfl
@[simp] theorem writeCtrl_inputs (v : Word) : (s.writeCtrl v).inputs = s.inputs := rfl
@[simp] theorem writeCtrl_responses (v : Word) : (s.writeCtrl v).responses = s.responses := rfl

/-! ## storeDigest -/

@[simp] theorem storeDigest_alg (d : List Byte) (n : Nat) : (s.storeDigest d n).alg = s.alg := rfl
@[simp] theorem storeDigest_ie (d : List Byte) (n : Nat) : (s.storeDigest d n).ie = s.ie := rfl
@[simp] theorem storeDigest_phase (d : List Byte) (n : Nat) : (s.storeDigest d n).phase = s.phase := rfl
@[simp] theorem storeDigest_done (d : List Byte) (n : Nat) : (s.storeDigest d n).done = s.done := rfl
@[simp] theorem storeDigest_wbusy (d : List Byte) (n : Nat) : (s.storeDigest d n).wbusy = s.wbusy := rfl
@[simp] theorem storeDigest_err (d : List Byte) (n : Nat) : (s.storeDigest d n).err = s.err := rfl
@[simp] theorem storeDigest_herr (d : List Byte) (n : Nat) : (s.storeDigest d n).herr = s.herr := rfl
@[simp] theorem storeDigest_digits (d : List Byte) (n : Nat) : (s.storeDigest d n).digits = s.digits := rfl
@[simp] theorem storeDigest_klen (d : List Byte) (n : Nat) : (s.storeDigest d n).klen = s.klen := rfl
@[simp] theorem storeDigest_dlen (d : List Byte) (n : Nat) : (s.storeDigest d n).dlen = BitVec.ofNat 7 n := rfl
@[simp] theorem storeDigest_counterLo (d : List Byte) (n : Nat) : (s.storeDigest d n).counterLo = s.counterLo := rfl
@[simp] theorem storeDigest_counterHi (d : List Byte) (n : Nat) : (s.storeDigest d n).counterHi = s.counterHi := rfl
@[simp] theorem storeDigest_trunc (d : List Byte) (n : Nat) : (s.storeDigest d n).trunc = s.trunc := rfl
@[simp] theorem storeDigest_offset (d : List Byte) (n : Nat) : (s.storeDigest d n).offset = s.offset := rfl
@[simp] theorem storeDigest_codeLen (d : List Byte) (n : Nat) : (s.storeDigest d n).codeLen = s.codeLen := rfl
@[simp] theorem storeDigest_key (d : List Byte) (n : Nat) : (s.storeDigest d n).key = s.key := rfl
@[simp] theorem storeDigest_digest (d : List Byte) (n : Nat) : (s.storeDigest d n).digest = Vector.ofFn fun i => if i.val < n then d.getD i.val 0 else 0 := rfl
@[simp] theorem storeDigest_code (d : List Byte) (n : Nat) : (s.storeDigest d n).code = s.code := rfl
@[simp] theorem storeDigest_lcmd (d : List Byte) (n : Nat) : (s.storeDigest d n).lcmd = s.lcmd := rfl
@[simp] theorem storeDigest_inputs (d : List Byte) (n : Nat) : (s.storeDigest d n).inputs = s.inputs := rfl
@[simp] theorem storeDigest_responses (d : List Byte) (n : Nat) : (s.storeDigest d n).responses = s.responses := rfl

/-! ## storeTrunc -/

@[simp] theorem storeTrunc_alg (r : BitVec 4 × BitVec 31) : (s.storeTrunc r).alg = s.alg := rfl
@[simp] theorem storeTrunc_ie (r : BitVec 4 × BitVec 31) : (s.storeTrunc r).ie = s.ie := rfl
@[simp] theorem storeTrunc_phase (r : BitVec 4 × BitVec 31) : (s.storeTrunc r).phase = s.phase := rfl
@[simp] theorem storeTrunc_done (r : BitVec 4 × BitVec 31) : (s.storeTrunc r).done = s.done := rfl
@[simp] theorem storeTrunc_wbusy (r : BitVec 4 × BitVec 31) : (s.storeTrunc r).wbusy = s.wbusy := rfl
@[simp] theorem storeTrunc_err (r : BitVec 4 × BitVec 31) : (s.storeTrunc r).err = s.err := rfl
@[simp] theorem storeTrunc_herr (r : BitVec 4 × BitVec 31) : (s.storeTrunc r).herr = s.herr := rfl
@[simp] theorem storeTrunc_digits (r : BitVec 4 × BitVec 31) : (s.storeTrunc r).digits = s.digits := rfl
@[simp] theorem storeTrunc_klen (r : BitVec 4 × BitVec 31) : (s.storeTrunc r).klen = s.klen := rfl
@[simp] theorem storeTrunc_dlen (r : BitVec 4 × BitVec 31) : (s.storeTrunc r).dlen = s.dlen := rfl
@[simp] theorem storeTrunc_counterLo (r : BitVec 4 × BitVec 31) : (s.storeTrunc r).counterLo = s.counterLo := rfl
@[simp] theorem storeTrunc_counterHi (r : BitVec 4 × BitVec 31) : (s.storeTrunc r).counterHi = s.counterHi := rfl
@[simp] theorem storeTrunc_trunc (r : BitVec 4 × BitVec 31) : (s.storeTrunc r).trunc = r.2 := rfl
@[simp] theorem storeTrunc_offset (r : BitVec 4 × BitVec 31) : (s.storeTrunc r).offset = r.1 := rfl
@[simp] theorem storeTrunc_codeLen (r : BitVec 4 × BitVec 31) : (s.storeTrunc r).codeLen = s.codeLen := rfl
@[simp] theorem storeTrunc_key (r : BitVec 4 × BitVec 31) : (s.storeTrunc r).key = s.key := rfl
@[simp] theorem storeTrunc_digest (r : BitVec 4 × BitVec 31) : (s.storeTrunc r).digest = s.digest := rfl
@[simp] theorem storeTrunc_code (r : BitVec 4 × BitVec 31) : (s.storeTrunc r).code = s.code := rfl
@[simp] theorem storeTrunc_lcmd (r : BitVec 4 × BitVec 31) : (s.storeTrunc r).lcmd = s.lcmd := rfl
@[simp] theorem storeTrunc_inputs (r : BitVec 4 × BitVec 31) : (s.storeTrunc r).inputs = s.inputs := rfl
@[simp] theorem storeTrunc_responses (r : BitVec 4 × BitVec 31) : (s.storeTrunc r).responses = s.responses := rfl

/-! ## render -/

@[simp] theorem render_alg (r : BitVec 64) (d : Nat) : (s.render r d).alg = s.alg := rfl
@[simp] theorem render_ie (r : BitVec 64) (d : Nat) : (s.render r d).ie = s.ie := rfl
@[simp] theorem render_phase (r : BitVec 64) (d : Nat) : (s.render r d).phase = s.phase := rfl
@[simp] theorem render_done (r : BitVec 64) (d : Nat) : (s.render r d).done = s.done := rfl
@[simp] theorem render_wbusy (r : BitVec 64) (d : Nat) : (s.render r d).wbusy = s.wbusy := rfl
@[simp] theorem render_err (r : BitVec 64) (d : Nat) : (s.render r d).err = s.err := rfl
@[simp] theorem render_herr (r : BitVec 64) (d : Nat) : (s.render r d).herr = s.herr := rfl
@[simp] theorem render_digits (r : BitVec 64) (d : Nat) : (s.render r d).digits = s.digits := rfl
@[simp] theorem render_klen (r : BitVec 64) (d : Nat) : (s.render r d).klen = s.klen := rfl
@[simp] theorem render_dlen (r : BitVec 64) (d : Nat) : (s.render r d).dlen = s.dlen := rfl
@[simp] theorem render_counterLo (r : BitVec 64) (d : Nat) : (s.render r d).counterLo = s.counterLo := rfl
@[simp] theorem render_counterHi (r : BitVec 64) (d : Nat) : (s.render r d).counterHi = s.counterHi := rfl
@[simp] theorem render_trunc (r : BitVec 64) (d : Nat) : (s.render r d).trunc = s.trunc := rfl
@[simp] theorem render_offset (r : BitVec 64) (d : Nat) : (s.render r d).offset = s.offset := rfl
@[simp] theorem render_codeLen (r : BitVec 64) (d : Nat) : (s.render r d).codeLen = BitVec.ofNat 5 d := rfl
@[simp] theorem render_key (r : BitVec 64) (d : Nat) : (s.render r d).key = s.key := rfl
@[simp] theorem render_digest (r : BitVec 64) (d : Nat) : (s.render r d).digest = s.digest := rfl
@[simp] theorem render_code (r : BitVec 64) (d : Nat) : (s.render r d).code = Vector.ofFn fun j => if j.val < d then digitChar r (d - 1 - j.val) else 0 := rfl
@[simp] theorem render_lcmd (r : BitVec 64) (d : Nat) : (s.render r d).lcmd = s.lcmd := rfl
@[simp] theorem render_inputs (r : BitVec 64) (d : Nat) : (s.render r d).inputs = s.inputs := rfl
@[simp] theorem render_responses (r : BitVec 64) (d : Nat) : (s.render r d).responses = s.responses := rfl

/-! ## zeroise -/

@[simp] theorem zeroise_alg : (s.zeroise).alg = s.alg := rfl
@[simp] theorem zeroise_ie : (s.zeroise).ie = s.ie := rfl
@[simp] theorem zeroise_phase : (s.zeroise).phase = s.phase := rfl
@[simp] theorem zeroise_done : (s.zeroise).done = s.done := rfl
@[simp] theorem zeroise_wbusy : (s.zeroise).wbusy = s.wbusy := rfl
@[simp] theorem zeroise_err : (s.zeroise).err = s.err := rfl
@[simp] theorem zeroise_herr : (s.zeroise).herr = s.herr := rfl
@[simp] theorem zeroise_digits : (s.zeroise).digits = s.digits := rfl
@[simp] theorem zeroise_klen : (s.zeroise).klen = 0 := rfl
@[simp] theorem zeroise_dlen : (s.zeroise).dlen = 0 := rfl
@[simp] theorem zeroise_counterLo : (s.zeroise).counterLo = 0 := rfl
@[simp] theorem zeroise_counterHi : (s.zeroise).counterHi = 0 := rfl
@[simp] theorem zeroise_trunc : (s.zeroise).trunc = 0 := rfl
@[simp] theorem zeroise_offset : (s.zeroise).offset = 0 := rfl
@[simp] theorem zeroise_codeLen : (s.zeroise).codeLen = 0 := rfl
@[simp] theorem zeroise_key : (s.zeroise).key = Vector.replicate 128 0 := rfl
@[simp] theorem zeroise_digest : (s.zeroise).digest = Vector.replicate 64 0 := rfl
@[simp] theorem zeroise_code : (s.zeroise).code = Vector.replicate 19 0 := rfl
@[simp] theorem zeroise_lcmd : (s.zeroise).lcmd = s.lcmd := rfl
@[simp] theorem zeroise_inputs : (s.zeroise).inputs = s.inputs := rfl
@[simp] theorem zeroise_responses : (s.zeroise).responses = s.responses := rfl

/-! ## resetEvent -/

@[simp] theorem resetEvent_alg : s.resetEvent.alg = State.reset.alg := rfl
@[simp] theorem resetEvent_ie : s.resetEvent.ie = State.reset.ie := rfl
@[simp] theorem resetEvent_phase : s.resetEvent.phase = State.reset.phase := rfl
@[simp] theorem resetEvent_done : s.resetEvent.done = State.reset.done := rfl
@[simp] theorem resetEvent_wbusy : s.resetEvent.wbusy = State.reset.wbusy := rfl
@[simp] theorem resetEvent_err : s.resetEvent.err = State.reset.err := rfl
@[simp] theorem resetEvent_herr : s.resetEvent.herr = State.reset.herr := rfl
@[simp] theorem resetEvent_digits : s.resetEvent.digits = State.reset.digits := rfl
@[simp] theorem resetEvent_klen : s.resetEvent.klen = State.reset.klen := rfl
@[simp] theorem resetEvent_dlen : s.resetEvent.dlen = State.reset.dlen := rfl
@[simp] theorem resetEvent_counterLo : s.resetEvent.counterLo = State.reset.counterLo := rfl
@[simp] theorem resetEvent_counterHi : s.resetEvent.counterHi = State.reset.counterHi := rfl
@[simp] theorem resetEvent_trunc : s.resetEvent.trunc = State.reset.trunc := rfl
@[simp] theorem resetEvent_offset : s.resetEvent.offset = State.reset.offset := rfl
@[simp] theorem resetEvent_codeLen : s.resetEvent.codeLen = State.reset.codeLen := rfl
@[simp] theorem resetEvent_key : s.resetEvent.key = State.reset.key := rfl
@[simp] theorem resetEvent_digest : s.resetEvent.digest = State.reset.digest := rfl
@[simp] theorem resetEvent_code : s.resetEvent.code = State.reset.code := rfl
@[simp] theorem resetEvent_lcmd : s.resetEvent.lcmd = State.reset.lcmd := rfl
@[simp] theorem resetEvent_inputs : s.resetEvent.inputs = s.inputs := rfl
@[simp] theorem resetEvent_responses : s.resetEvent.responses = s.responses := rfl

/-! ## hostAccess: the model's own fields, and the block's through `access` -/

@[simp] theorem hostAccess_alg (a : BusAccess) : (s.hostAccess a).alg = (s.access a).1.alg := rfl
@[simp] theorem hostAccess_ie (a : BusAccess) : (s.hostAccess a).ie = (s.access a).1.ie := rfl
@[simp] theorem hostAccess_phase (a : BusAccess) : (s.hostAccess a).phase = (s.access a).1.phase := rfl
@[simp] theorem hostAccess_done (a : BusAccess) : (s.hostAccess a).done = (s.access a).1.done := rfl
@[simp] theorem hostAccess_wbusy (a : BusAccess) : (s.hostAccess a).wbusy = (s.access a).1.wbusy := rfl
@[simp] theorem hostAccess_err (a : BusAccess) : (s.hostAccess a).err = (s.access a).1.err := rfl
@[simp] theorem hostAccess_herr (a : BusAccess) : (s.hostAccess a).herr = (s.access a).1.herr := rfl
@[simp] theorem hostAccess_digits (a : BusAccess) : (s.hostAccess a).digits = (s.access a).1.digits := rfl
@[simp] theorem hostAccess_klen (a : BusAccess) : (s.hostAccess a).klen = (s.access a).1.klen := rfl
@[simp] theorem hostAccess_dlen (a : BusAccess) : (s.hostAccess a).dlen = (s.access a).1.dlen := rfl
@[simp] theorem hostAccess_counterLo (a : BusAccess) : (s.hostAccess a).counterLo = (s.access a).1.counterLo := rfl
@[simp] theorem hostAccess_counterHi (a : BusAccess) : (s.hostAccess a).counterHi = (s.access a).1.counterHi := rfl
@[simp] theorem hostAccess_trunc (a : BusAccess) : (s.hostAccess a).trunc = (s.access a).1.trunc := rfl
@[simp] theorem hostAccess_offset (a : BusAccess) : (s.hostAccess a).offset = (s.access a).1.offset := rfl
@[simp] theorem hostAccess_codeLen (a : BusAccess) : (s.hostAccess a).codeLen = (s.access a).1.codeLen := rfl
@[simp] theorem hostAccess_key (a : BusAccess) : (s.hostAccess a).key = (s.access a).1.key := rfl
@[simp] theorem hostAccess_digest (a : BusAccess) : (s.hostAccess a).digest = (s.access a).1.digest := rfl
@[simp] theorem hostAccess_code (a : BusAccess) : (s.hostAccess a).code = (s.access a).1.code := rfl
@[simp] theorem hostAccess_lcmd (a : BusAccess) : (s.hostAccess a).lcmd = (s.access a).1.lcmd := rfl
@[simp] theorem hostAccess_inputs (a : BusAccess) : (s.hostAccess a).inputs = (s.access a).1.inputs := rfl
@[simp] theorem hostAccess_responses (a : BusAccess) : (s.hostAccess a).responses = (s.access a).2 :: s.responses := rfl

/-! ## withInputs -/

@[simp] theorem withInputs_alg (l : List Input) : (s.withInputs l).alg = s.alg := rfl
@[simp] theorem withInputs_ie (l : List Input) : (s.withInputs l).ie = s.ie := rfl
@[simp] theorem withInputs_phase (l : List Input) : (s.withInputs l).phase = s.phase := rfl
@[simp] theorem withInputs_done (l : List Input) : (s.withInputs l).done = s.done := rfl
@[simp] theorem withInputs_wbusy (l : List Input) : (s.withInputs l).wbusy = s.wbusy := rfl
@[simp] theorem withInputs_err (l : List Input) : (s.withInputs l).err = s.err := rfl
@[simp] theorem withInputs_herr (l : List Input) : (s.withInputs l).herr = s.herr := rfl
@[simp] theorem withInputs_digits (l : List Input) : (s.withInputs l).digits = s.digits := rfl
@[simp] theorem withInputs_klen (l : List Input) : (s.withInputs l).klen = s.klen := rfl
@[simp] theorem withInputs_dlen (l : List Input) : (s.withInputs l).dlen = s.dlen := rfl
@[simp] theorem withInputs_counterLo (l : List Input) : (s.withInputs l).counterLo = s.counterLo := rfl
@[simp] theorem withInputs_counterHi (l : List Input) : (s.withInputs l).counterHi = s.counterHi := rfl
@[simp] theorem withInputs_trunc (l : List Input) : (s.withInputs l).trunc = s.trunc := rfl
@[simp] theorem withInputs_offset (l : List Input) : (s.withInputs l).offset = s.offset := rfl
@[simp] theorem withInputs_codeLen (l : List Input) : (s.withInputs l).codeLen = s.codeLen := rfl
@[simp] theorem withInputs_key (l : List Input) : (s.withInputs l).key = s.key := rfl
@[simp] theorem withInputs_digest (l : List Input) : (s.withInputs l).digest = s.digest := rfl
@[simp] theorem withInputs_code (l : List Input) : (s.withInputs l).code = s.code := rfl
@[simp] theorem withInputs_lcmd (l : List Input) : (s.withInputs l).lcmd = s.lcmd := rfl
@[simp] theorem withInputs_inputs (l : List Input) : (s.withInputs l).inputs = l := rfl
@[simp] theorem withInputs_responses (l : List Input) : (s.withInputs l).responses = s.responses := rfl
@[simp] theorem withInputs_withInputs (l m : List Input) : (s.withInputs l).withInputs m = s.withInputs m := rfl

end Sys2Proof.Machine
end

