-- ==== Sys2Proof/Laws/Ops.lean ====
section
/-! SUPPORT. One lemma for each shared operation: what it answers, and what it leaves alone. -/

namespace Sys2Proof.Machine

/-! ## Completion -/

@[simp] theorem complete_ok (s t : State) : s.complete (.ok t) = t.finish 0 0 := rfl

@[simp] theorem complete_error (s : State) (e : CmdError) : s.complete (.error e) = s.failWith e := rfl

theorem failWith_eq (s : State) (e : CmdError) :
    s.failWith e = { s with phase := .idle, done := true, err := e.errCode, herr := e.herrCode } := rfl

theorem finish_eq (s : State) (err : BitVec 4) (herr : Byte) :
    s.finish err herr = { s with phase := .idle, done := true, err := err, herr := herr } := rfl

theorem errCode_ne_zero (e : CmdError) : e.errCode ≠ 0 := by cases e <;> simp [CmdError.errCode]

theorem errCode_le_eight (e : CmdError) : e.errCode.toNat ≤ 8 := by cases e <;> simp [CmdError.errCode]

theorem herrCode_of_errCode_ne (e : CmdError) (h : e.errCode ≠ 8) : e.herrCode = 0 := by
  cases e <;> simp_all [CmdError.errCode, CmdError.herrCode]

/-- A completion either fails and writes STATUS alone, or writes what its rule stored. -/
theorem complete_cases (s : State) (r : Except CmdError State) :
    (∃ e, r = .error e ∧ s.complete r = s.failWith e) ∨ ∃ t, r = .ok t ∧ s.complete r = t.finish 0 0 := by
  cases r with
  | error e => exact .inl ⟨e, rfl, rfl⟩
  | ok t => exact .inr ⟨t, rfl, rfl⟩

/-! ## The outcome of each command -/

theorem algOperand_some {p : Primitive} {s : State} {desc : AlgDesc} (h : p.table s.alg = some desc) :
    algOperand p s = .ok desc := by simp [algOperand, h]

theorem algOperand_none {p : Primitive} {s : State} (h : p.table s.alg = none) :
    algOperand p s = .error .badAlg := by simp [algOperand, h]

theorem checkKey_zero {s : State} (h : s.klen.toNat = 0) : checkKey s = .error .invalidSecret := by simp [checkKey, h]

theorem checkKey_long {s : State} (h : 128 < s.klen.toNat) : checkKey s = .error .keyLen := by
  have : s.klen.toNat ≠ 0 := by omega
  simp [checkKey, this, h]

theorem checkKey_valid {s : State} (h₁ : 1 ≤ s.klen.toNat) (h₂ : s.klen.toNat ≤ 128) : checkKey s = .ok () := by
  have h₀ : s.klen.toNat ≠ 0 := by omega
  simp [checkKey, h₀, Nat.not_lt.mpr h₂]

theorem digitsOperand_bad {s : State} (h : s.digits.toNat = 0 ∨ 19 < s.digits.toNat) :
    digitsOperand s = .error .invalidDigits := by simp [digitsOperand, h]

theorem digitsOperand_good {s : State} (h₁ : 1 ≤ s.digits.toNat) (h₂ : s.digits.toNat ≤ 19) :
    digitsOperand s = .ok s.digits.toNat := by
  have : ¬(s.digits.toNat = 0 ∨ s.digits.toNat > 19) := by omega
  simp only [digitsOperand, this, if_false]

theorem digitsOperand_ok {s : State} {d : Nat} (h : digitsOperand s = .ok d) :
    d = s.digits.toNat ∧ 1 ≤ d ∧ d ≤ 19 := by
  unfold digitsOperand Config.digitsMax at h
  split at h
  · cases h
  · next hn => cases h; exact ⟨rfl, by omega, by omega⟩

/-- What a HMAC can end in. -/
theorem runHmac_cases (p : Primitive) (s : State) :
    (∃ e, hmacInputs p s = .error e ∧ runHmac p s = .error e) ∨
    (∃ desc c, hmacInputs p s = .ok desc ∧ p.hash s.alg s.keyBytes s.message = .fail c ∧
      runHmac p s = .error (.hashFail c)) ∨
    ∃ desc digest, hmacInputs p s = .ok desc ∧ p.hash s.alg s.keyBytes s.message = .ok digest ∧
      runHmac p s = .ok (s.storeDigest digest desc.L) := by
  unfold runHmac callPrimitive
  cases h : hmacInputs p s with
  | error e => exact .inl ⟨e, rfl, rfl⟩
  | ok desc =>
    cases hr : p.hash s.alg s.keyBytes s.message with
    | fail c => exact .inr (.inl ⟨desc, c, rfl, rfl, rfl⟩)
    | ok digest => exact .inr (.inr ⟨desc, digest, rfl, rfl, rfl⟩)

/-- What a GENERATE can end in. -/
theorem runGenerate_cases (p : Primitive) (s : State) :
    (∃ e, generateInputs p s = .error e ∧ runGenerate p s = .error e) ∨
    (∃ desc d c, generateInputs p s = .ok (desc, d) ∧ p.hash s.alg s.keyBytes s.message = .fail c ∧
      runGenerate p s = .error (.hashFail c)) ∨
    ∃ desc d digest, generateInputs p s = .ok (desc, d) ∧ p.hash s.alg s.keyBytes s.message = .ok digest ∧
      runGenerate p s = .ok (s.storeGenerated digest desc.L d) := by
  unfold runGenerate callPrimitive
  cases h : generateInputs p s with
  | error e => exact .inl ⟨e, rfl, rfl⟩
  | ok r =>
    obtain ⟨desc, d⟩ := r
    cases hr : p.hash s.alg s.keyBytes s.message with
    | fail c => exact .inr (.inl ⟨desc, d, c, rfl, rfl, rfl⟩)
    | ok digest => exact .inr (.inr ⟨desc, d, digest, rfl, rfl, rfl⟩)

/-- GENERATE's inputs, once they are met. -/
theorem generateInputs_ok {p : Primitive} {s : State} {desc : AlgDesc} {d : Nat} (h : generateInputs p s = .ok (desc, d)) :
    p.table s.alg = some desc ∧ d = s.digits.toNat ∧ 1 ≤ d ∧ d ≤ 19 ∧ checkKey s = .ok () := by
  unfold generateInputs algOperand at h
  cases ht : p.table s.alg with
  | none => simp [ht] at h
  | some desc' =>
    cases hd : digitsOperand s with
    | error e => simp [ht, hd] at h
    | ok d' =>
      cases hk : checkKey s with
      | error e => simp [ht, hd, hk] at h
      | ok _ =>
        simp only [ht, hd, hk, Except.ok.injEq, Prod.mk.injEq] at h
        obtain ⟨rfl, rfl⟩ := h
        exact ⟨rfl, (digitsOperand_ok hd).1, (digitsOperand_ok hd).2.1, (digitsOperand_ok hd).2.2, rfl⟩

/-- What a TRUNC can end in. -/
theorem runTrunc_cases (s : State) :
    (∃ e, runTrunc s = .error e) ∨ runTrunc s = .ok (s.storeTrunc (truncate s.digestBytes s.dlen.toNat)) := by
  unfold runTrunc
  cases checkDigestLen s with
  | error e => exact .inl ⟨e, rfl⟩
  | ok _ =>
    by_cases h : (truncOffset s.digestBytes s.dlen.toNat).toNat + 4 > s.dlen.toNat
    · exact .inl ⟨.shortDigest, by simp [h]⟩
    · exact .inr (by simp [h])

/-- What a FORMAT can end in. -/
theorem runFormat_cases (s : State) :
    (∃ e, runFormat s = .error e) ∨
    ∃ d, d = s.digits.toNat ∧ 1 ≤ d ∧ d ≤ 19 ∧ runFormat s = .ok (s.render (codeValue s.trunc d) d) := by
  unfold runFormat
  cases h : digitsOperand s with
  | error e => exact .inl ⟨e, rfl⟩
  | ok d => exact .inr ⟨d, (digitsOperand_ok h).1, (digitsOperand_ok h).2.1, (digitsOperand_ok h).2.2, rfl⟩

/-- `Run(op)` of 60_exceptions.md R205 for every command. -/
def runOf (i : Instr) (s : State) : Except CmdError State :=
  match i with
  | .hmac => runHmac platform s
  | .trunc => runTrunc s
  | .format => runFormat s
  | .generate => runGenerate platform s
  | .clear => .ok s.zeroise

/-- Every command ends in a completion of what its rule gives. -/
theorem exec_eq (i : Instr) (s : State) : exec i s = .next (s.complete (runOf i s)) := by cases i <;> rfl

/-- A meaning either fails and writes STATUS alone, or stores what the rule of its command gives. -/
theorem exec_cases {i : Instr} {s t : State} (h : exec i s = .next t) :
    (∃ e, runOf i s = .error e ∧ t = s.failWith e) ∨ ∃ u, runOf i s = .ok u ∧ t = u.finish 0 0 := by
  rw [exec_eq, Host.Outcome.next.injEq] at h
  subst h
  exact complete_cases s (runOf i s)

/-! ## Host accesses -/

theorem access_malformed {a : BusAccess} (h : a.wellFormed = false) (s : State) : s.access a = (s, .busError) := by
  simp [State.access, h]

theorem access_read {off : Offset} (h : off.toNat % 4 = 0) (s : State) :
    s.access (.read 4 off) = (s, .data (s.memRead off)) := by
  simp [State.access, BusAccess.wellFormed, h]

theorem access_write {off : Offset} (h : off.toNat % 4 = 0) (s : State) (v : Word) :
    s.access (.write 4 off v) = (s.memWrite off v, .ok) := by
  simp [State.access, BusAccess.wellFormed, h]

/-- What a host access can do to the block: nothing, or one aligned write. -/
theorem access_cases (s : State) (a : BusAccess) :
    (s.access a).1 = s ∨ ∃ off v, a = .write 4 off v ∧ off.toNat % 4 = 0 ∧ (s.access a).1 = s.memWrite off v := by
  by_cases hw : a.wellFormed = true
  · cases a with
    | read width off => exact .inl (by simp [State.access, hw])
    | write width off v =>
      simp only [BusAccess.wellFormed, Bool.and_eq_true, decide_eq_true_eq] at hw
      obtain ⟨rfl, ho⟩ := hw
      exact .inr ⟨off, v, rfl, ho, by rw [access_write ho]⟩
  · exact .inl (by rw [access_malformed (by simpa using hw)])

theorem memWrite_status (s : State) (v : Word) : s.memWrite 0x00C v = s.writeStatus v := rfl

theorem memWrite_busy {s : State} {off : Offset} (hs : off ≠ 0x00C) (hb : s.phase = .busy) (v : Word) :
    s.memWrite off v = s.noteBusyWrite := by
  have : off ≠ Reg.off .status := hs
  simp [State.memWrite, this, hb]

theorem memWrite_idle {s : State} {off : Offset} {r : Reg} (hs : off ≠ 0x00C) (hp : s.phase = .idle) (hr : regAt off = some r)
    (v : Word) : s.memWrite off v = s.writeReg r v := by
  have : off ≠ Reg.off .status := hs
  simp [State.memWrite, this, hp, hr]

theorem memWrite_unmapped {s : State} {off : Offset} (hp : s.phase = .idle) (hr : regAt off = none) (v : Word) :
    s.memWrite off v = s := by
  have : off ≠ Reg.off .status := by rintro rfl; exact absurd hr (by decide)
  simp [State.memWrite, this, hp, hr]

/-- What a write can do: STATUS in any phase, WBUSY alone while busy, a register while idle, or nothing. -/
theorem memWrite_cases (s : State) (off : Offset) (v : Word) :
    (off = 0x00C ∧ s.memWrite off v = s.writeStatus v) ∨
    (off ≠ 0x00C ∧ s.phase = .busy ∧ s.memWrite off v = s.noteBusyWrite) ∨
    (off ≠ 0x00C ∧ s.phase = .idle ∧ (∃ r, regAt off = some r ∧ s.memWrite off v = s.writeReg r v)) ∨
    (off ≠ 0x00C ∧ s.phase = .idle ∧ regAt off = none ∧ s.memWrite off v = s) := by
  by_cases hs : off = 0x00C
  · subst hs; exact .inl ⟨rfl, rfl⟩
  · have hs' : off ≠ Reg.off .status := hs
    cases hp : s.phase with
    | busy => exact .inr (.inl ⟨hs, rfl, memWrite_busy hs hp v⟩)
    | idle =>
      cases hr : regAt off with
      | none => exact .inr (.inr (.inr ⟨hs, rfl, rfl, by simp [State.memWrite, hs', hp, hr]⟩))
      | some r => exact .inr (.inr (.inl ⟨hs, rfl, r, rfl, by simp [State.memWrite, hs', hp, hr]⟩))

/-! ## STATUS and CTRL as fields -/

theorem statusWord_eq_append (s : State) :
    s.statusWord = 0#8 ++ s.herr ++ 0#4 ++ s.err ++ 0#5 ++ BitVec.ofBool s.wbusy ++ BitVec.ofBool s.done ++
      BitVec.ofBool s.busyBit := by
  unfold State.statusWord bitWord
  apply BitVec.eq_of_getLsbD_eq
  intro i hi
  rw [BitVec.getLsbD_append]
  simp only [BitVec.getLsbD_append]
  interval_cases i <;> simp

theorem ctrlWord_eq_append (s : State) : s.ctrlWord = 0#23 ++ BitVec.ofBool s.ie ++ 0#4 ++ s.alg := by
  unfold State.ctrlWord bitWord
  apply BitVec.eq_of_getLsbD_eq
  intro i hi
  rw [BitVec.getLsbD_append]
  simp only [BitVec.getLsbD_append]
  interval_cases i <;> simp

/-! ## Buffers -/

@[simp] theorem writeLanes_getElem {n : Nat} (buf : Vector Byte n) (k : Nat) (v : Word) (j : Nat) (h : j < n) :
    (writeLanes buf k v)[j] = if j / 4 = k then byteLane v (j % 4) else buf[j] := by
  simp [writeLanes]

theorem storeDigest_digest_getElem (s : State) (digest : List Byte) (len j : Nat) (h : j < 64) :
    (s.storeDigest digest len).digest[j] = if j < len then digest.getD j 0 else 0 := by
  simp [State.storeDigest]

theorem render_code_getElem (s : State) (r : BitVec 64) (d j : Nat) (h : j < 19) :
    (s.render r d).code[j] = if j < d then digitChar r (d - 1 - j) else 0 := by
  simp [State.render]

theorem zeroise_key_getElem (s : State) (j : Nat) (h : j < 128) : s.zeroise.key[j] = 0 := by simp [State.zeroise]

end Sys2Proof.Machine
end

