-- ==== Sys2Proof/Laws/Kernels.lean ====
section
/-! SUPPORT. The window by its registers, the byte lanes, the truncation kernel and what each command's rule stores. -/

namespace Sys2Proof.Machine

/-! ## Values of concatenations -/

theorem toNat_append_eq {m n : Nat} (a : BitVec m) (b : BitVec n) : (a ++ b).toNat = a.toNat * 2 ^ n + b.toNat := by
  rw [BitVec.toNat_append, ← Nat.shiftLeft_add_eq_or_of_lt b.isLt, Nat.shiftLeft_eq]

theorem statusWord_toNat (s : State) :
    s.statusWord.toNat = 65536 * s.herr.toNat + 256 * s.err.toNat + 4 * s.wbusy.toNat + 2 * s.done.toNat +
      s.busyBit.toNat := by
  rw [statusWord_eq_append]
  simp only [toNat_append_eq]
  cases s.wbusy <;> cases s.done <;> cases s.busyBit <;> simp <;> omega

theorem ctrlWord_toNat (s : State) : s.ctrlWord.toNat = 256 * s.ie.toNat + s.alg.toNat := by
  rw [ctrlWord_eq_append]
  simp only [toNat_append_eq]
  cases s.ie <;> simp

/-! ## Offsets of the buffers -/

theorem offset_eq_ofNat {off : Offset} {n : Nat} (h : off.toNat = n) : off = BitVec.ofNat 12 n := by subst h; simp

theorem regAt_keyWord (k : Nat) (h : k < 32) : regAt (BitVec.ofNat 12 (0x100 + 4 * k)) = some (.key ⟨k, h⟩) := by
  interval_cases k <;> rfl

theorem regAt_digestWord (k : Nat) (h : k < 16) : regAt (BitVec.ofNat 12 (0x200 + 4 * k)) = some (.digest ⟨k, h⟩) := by
  interval_cases k <;> rfl

theorem regAt_codeWord (k : Nat) (h : k < 5) : regAt (BitVec.ofNat 12 (0x300 + 4 * k)) = some (.code ⟨k, h⟩) := by
  interval_cases k <;> rfl

/-! ## Byte lanes -/

theorem byteLane_wordOfLanes (b0 b1 b2 b3 : Byte) (j : Nat) (hj : j < 4) :
    byteLane (wordOfLanes b0 b1 b2 b3) j = if j = 0 then b0 else if j = 1 then b1 else if j = 2 then b2 else b3 := by
  apply BitVec.eq_of_toNat_eq
  unfold byteLane wordOfLanes
  rw [BitVec.extractLsb'_toNat, Nat.shiftRight_eq_div_pow, toNat_append_eq, toNat_append_eq, toNat_append_eq]
  have := b0.isLt
  have := b1.isLt
  have := b2.isLt
  have := b3.isLt
  interval_cases j <;> simp <;> omega

/-! ## The schedule and the block do not mix -/

theorem access_withInputs (s : State) (l : List Input) (a : BusAccess) :
    (s.withInputs l).access a = ((s.access a).1.withInputs l, (s.access a).2) := by
  unfold State.access
  split
  · cases a with
    | read w off =>
      simp only [Prod.mk.injEq, true_and]
      unfold State.memRead
      cases regAt off with
      | none => rfl
      | some r => cases r <;> rfl
    | write w off v =>
      simp only [Prod.mk.injEq, and_true]
      unfold State.memWrite
      split
      · rfl
      · rw [withInputs_phase]
        split
        · rfl
        · cases regAt off with
          | none => rfl
          | some r => cases r <;> rfl
  · rfl

/-- While a command is in flight a host access touches DONE and WBUSY alone. -/
theorem access_busy (s : State) (a : BusAccess) (hb : s.phase = .busy) :
    ∃ d w, (s.access a).1 = { s with done := d, wbusy := w } := by
  rcases access_cases s a with e | ⟨o, v, rfl, _, e⟩
  · exact ⟨s.done, s.wbusy, e⟩
  · rcases memWrite_cases s o v with ⟨rfl, e'⟩ | ⟨_, _, e'⟩ | ⟨_, hp, _⟩ | ⟨_, hp, _⟩
    · exact ⟨_, _, e.trans e'⟩
    · exact ⟨s.done, true, e.trans e'⟩
    · rw [hb] at hp; cases hp
    · rw [hb] at hp; cases hp

/-! ## The truncation kernel -/

theorem truncOffset_toNat (digest : List Byte) (len : Nat) :
    (truncOffset digest len).toNat = (digest.getD (len - 1) 0).toNat % 16 := by simp [truncOffset]

theorem truncWindow_toNat (digest : List Byte) (off : Nat) :
    (truncWindow digest off).toNat = (digest.getD off 0).toNat % 128 * 2 ^ 24 + (digest.getD (off + 1) 0).toNat * 2 ^ 16 +
      (digest.getD (off + 2) 0).toNat * 2 ^ 8 + (digest.getD (off + 3) 0).toNat := by
  unfold truncWindow
  generalize digest.getD off 0 = a
  generalize digest.getD (off + 1) 0 = b
  generalize digest.getD (off + 2) 0 = c
  generalize digest.getD (off + 3) 0 = d
  have concat : (((a &&& 0x7F).setWidth 32 <<< 24) ||| (b.setWidth 32 <<< 16) ||| (c.setWidth 32 <<< 8) |||
      d.setWidth 32 : Word) = (a &&& 0x7F) ++ b ++ c ++ d := by
    apply BitVec.eq_of_getLsbD_eq
    intro i hi
    rw [BitVec.getLsbD_append]
    simp only [BitVec.getLsbD_append]
    interval_cases i <;> simp
  have mask : (a &&& 0x7F).toNat = a.toNat % 128 := by
    rw [BitVec.toNat_and]
    show a.toNat &&& (2 ^ 7 - 1) = _
    rw [Nat.and_two_pow_sub_one_eq_mod]
  rw [concat, BitVec.toNat_setWidth, toNat_append_eq, toNat_append_eq, toNat_append_eq, mask]
  have := b.isLt
  have := c.isLt
  have := d.isLt
  omega

theorem digestBytes_getD (s : State) (j : Nat) (h : j < s.dlen.toNat) (h' : s.dlen.toNat ≤ 64) :
    s.digestBytes.getD j 0 = s.digest[j] := by
  unfold State.digestBytes
  rw [List.getD_eq_getElem?_getD, List.getElem?_take]
  simp [h, show j < 64 by omega]

/-! ## What each rule stores -/

/-- A command that succeeds stores its outputs (10_state.md R39) and nothing else. -/
theorem runOf_frame {i : Instr} {s u : State} (h : runOf i s = .ok u) :
    match i with
    | .hmac => u = { s with digest := u.digest, dlen := u.dlen }
    | .trunc => u = { s with offset := u.offset, trunc := u.trunc }
    | .format => u = { s with code := u.code, codeLen := u.codeLen }
    | .generate =>
      u = { s with digest := u.digest, dlen := u.dlen, offset := u.offset, trunc := u.trunc, code := u.code,
                   codeLen := u.codeLen }
    | .clear => u = s.zeroise := by
  cases i
  · change runHmac platform s = _ at h
    rcases runHmac_cases platform s with ⟨e, _, h'⟩ | ⟨d, c, _, _, h'⟩ | ⟨d, c, _, _, h'⟩ <;> rw [h'] at h <;> cases h
    rfl
  · change runTrunc s = _ at h
    rcases runTrunc_cases s with ⟨e, h'⟩ | h' <;> rw [h'] at h <;> cases h
    rfl
  · change runFormat s = _ at h
    rcases runFormat_cases s with ⟨e, h'⟩ | ⟨_, _, _, _, h'⟩ <;> rw [h'] at h <;> cases h
    rfl
  · change runGenerate platform s = _ at h
    rcases runGenerate_cases platform s with ⟨e, _, h'⟩ | ⟨d, c, _, _, _, h'⟩ | ⟨d, c, _, _, _, h'⟩ <;> rw [h'] at h <;> cases h
    rfl
  · cases h
    rfl

end Sys2Proof.Machine
end

