-- ==== Sys2Proof/Laws/Step.lean ====
section
/-! SUPPORT. What one step can do, said once. -/

namespace Sys2Proof.Machine

theorem step_end {s : State} (h : s.inputs = []) : step s = engineTurn s := by simp [step, turn, h]

theorem step_engine {s : State} {rest : List Input} (h : s.inputs = .engine :: rest) :
    step s = engineTurn (s.withInputs rest) := by simp [step, turn, h]

theorem step_rst {s : State} {rest : List Input} (h : s.inputs = .rst :: rest) :
    step s = .next (s.withInputs rest).resetEvent := by simp [step, turn, h]

theorem step_bus {s : State} {a : BusAccess} {rest : List Input} (h : s.inputs = .bus a :: rest) :
    step s = .next ((s.withInputs rest).hostAccess a) := by simp [step, turn, h]

theorem step_poll {s : State} {reads : Nat} {rest : List Input} (h : s.inputs = .poll reads :: rest) :
    step s = pollTurn reads rest s := by simp [step, turn, h]

theorem withInputs_self {s : State} {l : List Input} (h : s.inputs = l) : s.withInputs l = s := by subst h; rfl

theorem engineTurn_busy {s : State} (h : s.phase = .busy) : engineTurn s = completion s := by simp [engineTurn, h]

theorem engineTurn_idle {s : State} (h : s.phase = .idle) : engineTurn s = .next s := by simp [engineTurn, h]

theorem completion_cases (s : State) :
    (∃ i, decode s.lcmd = .ok i ∧ completion s = exec i s) ∨
    ∃ e, decode s.lcmd = .error e ∧ completion s = .next (s.failWith .illegalCmd) := by
  unfold completion
  cases h : decode s.lcmd with
  | ok i => exact .inl ⟨i, rfl, rfl⟩
  | error e => exact .inr ⟨e, rfl, rfl⟩

/-- What the engine's turn can do. -/
theorem engineTurn_cases {s t : State} (h : engineTurn s = .next t) :
    (s.phase = .idle ∧ t = s) ∨ (s.phase = .busy ∧ t = s.failWith .illegalCmd) ∨
      ∃ i, s.phase = .busy ∧ decode s.lcmd = .ok i ∧ exec i s = .next t := by
  cases hp : s.phase with
  | idle => rw [engineTurn_idle hp, Host.Outcome.next.injEq] at h; exact .inl ⟨rfl, h.symm⟩
  | busy =>
    rw [engineTurn_busy hp] at h
    rcases completion_cases s with ⟨i, hd, hc⟩ | ⟨e, hd, hc⟩
    · exact .inr (.inr ⟨i, rfl, hd, hc ▸ h⟩)
    · rw [hc, Host.Outcome.next.injEq] at h; exact .inr (.inl ⟨rfl, h.symm⟩)

/-- What a step can do: the engine's turn, a reset, a host access that the schedule names, or a read of STATUS by `poll`. -/
theorem step_cases {s t : State} (h : step s = .next t) :
    (∃ l, engineTurn (s.withInputs l) = .next t) ∨
    (∃ l, s.inputs = .rst :: l ∧ t = (s.withInputs l).resetEvent) ∨
    (∃ a l, s.inputs = .bus a :: l ∧ t = (s.withInputs l).hostAccess a) ∨
    ∃ l, t = (s.withInputs l).hostAccess (.read 4 0x00C) := by
  cases hi : s.inputs with
  | nil => rw [step_end hi] at h; exact .inl ⟨[], by rwa [withInputs_self hi]⟩
  | cons x l =>
    cases x with
    | engine => rw [step_engine hi] at h; exact .inl ⟨l, h⟩
    | rst => rw [step_rst hi, Host.Outcome.next.injEq] at h; exact .inr (.inl ⟨l, rfl, h.symm⟩)
    | bus a => rw [step_bus hi, Host.Outcome.next.injEq] at h; exact .inr (.inr (.inl ⟨a, l, rfl, h.symm⟩))
    | poll reads =>
      rw [step_poll hi] at h
      unfold pollTurn at h
      by_cases hp : s.phase = .busy
      · rw [if_pos hp] at h
        cases reads with
        | zero => exact .inl ⟨.poll 0 :: l, by rw [engineTurn_busy (by simpa using hp)]; exact h⟩
        | succ n => rw [Host.Outcome.next.injEq] at h; exact .inr (.inr (.inr ⟨.poll n :: l, h.symm⟩))
      · rw [if_neg hp, Host.Outcome.next.injEq] at h
        exact .inr (.inr (.inr ⟨l, h.symm⟩))

/-! ## Runs of several steps -/

theorem run_zero (s : State) : Host.Core.run Sys2Proof.core 0 s = .next s := rfl

theorem run_succ {s t : State} (k : Nat) (h : step s = .next t) :
    Host.Core.run Sys2Proof.core (k + 1) s = Host.Core.run Sys2Proof.core k t := by
  have h' : Sys2Proof.core.step s = .next t := h
  simp only [Host.Core.run, h']

end Sys2Proof.Machine
end

