-- ==== Sys2Proof/Laws/Host.lean ====
section
/-! SUPPORT. What running a host program comes down to. -/

namespace Sys2Proof.Machine

@[simp] theorem afterRun_next {α : Type} (s : State) (k : State → Host.Outcome α Fault Refusal) :
    afterRun (.next s) k = k s := rfl

@[simp] theorem lastRead_data (s : State) (v : Word) (earlier : List Response) (h : s.responses = .data v :: earlier) :
    s.lastRead = v := by simp [State.lastRead, State.lastReads, h, Response.readData]

theorem hostCounter_zero (time : BitVec 64) : hostCounter time 0 = none := rfl

theorem hostCounter_pos {time : BitVec 64} {step : Nat} (h : 1 ≤ step) :
    hostCounter time step = some (BitVec.ofNat 64 (time.toNat / step)) := by
  have h₀ : step ≠ 0 := by omega
  simp [hostCounter, h₀]

theorem laneBytes_wordOfLanes (b0 b1 b2 b3 : Byte) : laneBytes (wordOfLanes b0 b1 b2 b3) = [b0, b1, b2, b3] := by
  simp [laneBytes, byteLane_wordOfLanes]

/-! ## A host program whose accesses are well formed runs as the block does -/

/-- Every access the schedule still holds is well formed. -/
def InputsWellFormed (l : List Input) : Prop := ∀ a, Input.bus a ∈ l → a.wellFormed = true

theorem programStep_eq_step {s : State} (h : InputsWellFormed s.inputs) : programStep s = step s := by
  unfold programStep
  split
  · rename_i a l hi; rw [if_pos (h a (by simp [hi]))]
  · rfl

theorem completion_inputs {s t : State} (h : completion s = .next t) : t.inputs = s.inputs := by
  rcases completion_cases s with ⟨i, _, hc⟩ | ⟨e, _, hc⟩
  · rw [hc] at h
    rcases exec_cases h with ⟨e, _, rfl⟩ | ⟨u, hu, rfl⟩
    · rfl
    · have hf := runOf_frame hu
      show u.inputs = s.inputs
      cases i with
      | clear => rw [show u = s.zeroise from hf]; rfl
      | hmac | trunc | format | generate => simp only at hf; rw [hf]
  · rw [hc] at h; cases h; rfl

theorem engineTurn_inputs {s t : State} (h : engineTurn s = .next t) : t.inputs = s.inputs := by
  cases hp : s.phase with
  | idle => rw [engineTurn_idle hp] at h; cases h; rfl
  | busy => rw [engineTurn_busy hp] at h; exact completion_inputs h

theorem hostAccess_withInputs_inputs (s : State) (l : List Input) (a : BusAccess) :
    ((s.withInputs l).hostAccess a).inputs = l := by
  rw [hostAccess_inputs, access_withInputs]; rfl

theorem step_keeps_inputsWellFormed {s t : State} (h : InputsWellFormed s.inputs) (hs : step s = .next t) :
    InputsWellFormed t.inputs := by
  cases hi : s.inputs with
  | nil => rw [step_end hi] at hs; rwa [engineTurn_inputs hs]
  | cons x l =>
    have hl : InputsWellFormed l := fun a ha => h a (by simp [hi, ha])
    have hpoll : ∀ m, InputsWellFormed (.poll m :: l) := fun m a ha => hl a (by simpa using ha)
    cases x with
    | engine => rw [step_engine hi] at hs; rwa [engineTurn_inputs hs]
    | rst => rw [step_rst hi] at hs; cases hs; exact hl
    | bus a => rw [step_bus hi] at hs; cases hs; rwa [hostAccess_withInputs_inputs]
    | poll n =>
      rw [step_poll hi] at hs
      unfold pollTurn at hs
      split at hs
      · cases n with
        | zero => rw [completion_inputs hs]; exact hpoll 0
        | succ m => cases hs; rw [hostAccess_withInputs_inputs]; exact hpoll m
      · cases hs; rwa [hostAccess_withInputs_inputs]

theorem run_hostCore_eq (k : Nat) : ∀ s : State, InputsWellFormed s.inputs →
    Host.Core.run hostCore k s = Host.Core.run Sys2Proof.core k s := by
  induction k with
  | zero => intro s _; rfl
  | succ k ih =>
    intro s h
    have hp : hostCore.step s = Sys2Proof.core.step s := programStep_eq_step h
    simp only [Host.Core.run, hp]
    cases hs : Sys2Proof.core.step s with
    | next t => exact ih t (step_keeps_inputsWellFormed h hs)
    | fault f => rfl
    | refused r => rfl

theorem run_add {a : Nat} (b : Nat) : ∀ {s t : State}, Host.Core.run Sys2Proof.core a s = .next t →
    Host.Core.run Sys2Proof.core (a + b) s = Host.Core.run Sys2Proof.core b t := by
  induction a with
  | zero => intro s t h; cases h; rw [Nat.zero_add]
  | succ a ih =>
    intro s t h
    rw [Nat.add_right_comm]
    simp only [Host.Core.run] at h ⊢
    cases hs : Sys2Proof.core.step s with
    | next u => rw [hs] at h; exact ih h
    | fault f => rw [hs] at h; cases h
    | refused r => rw [hs] at h; cases h

end Sys2Proof.Machine
end

