-- ==== Sys2Proof/Laws/PerInstr.lean ====
section
/-! SUPPORT. Facts about each command as syntax. -/

namespace Sys2Proof.Laws.Encoding

/-- A command's word has RSVD = 0 and its own OP, which is 1 to 5 (30_encoding.md R90, R92), and the command is well formed. -/
def Statement (i : Instr) : Prop :=
  rsvdField (encode i) = 0 ∧ opField (encode i) = opcodeOf i ∧ instrOfOpcode (opcodeOf i) = some i ∧ i.wellFormed = true

theorem hmac : Statement .hmac := by unfold Statement; decide

theorem trunc : Statement .trunc := by unfold Statement; decide

theorem format : Statement .format := by unfold Statement; decide

theorem generate : Statement .generate := by unfold Statement; decide

theorem clear : Statement .clear := by unfold Statement; decide

end Sys2Proof.Laws.Encoding
end

