-- ==== Sys2Proof/Tests/Slice0.lean ====
section
/-! SUPPORT. The model's own tests. Expected results come from the vectors of 95_test_vectors.md and the tables of 42 and 43
(named in each comment), and every obligation with a hypothesis has a witness that meets it. -/

namespace Sys2Proof.Tests

open Sys2Proof.Machine

/-! ## Well-formedness refuses -/

/-- 00_scope.md R7. -/
theorem test_wellFormed_algDesc :
    AlgDesc.wellFormed { L := 19, B := 64 } = false ∧ AlgDesc.wellFormed { L := 65, B := 128 } = false ∧
      AlgDesc.wellFormed { L := 20, B := 64 } = true ∧ AlgDesc.wellFormed { L := 64, B := 128 } = true := by decide

/-- 20_memory.md R63: width, alignment, for reads and writes. -/
theorem test_wellFormed_busAccess :
    BusAccess.wellFormed (.read 2 0x000) = false ∧ BusAccess.wellFormed (.read 4 0x002) = false ∧
      BusAccess.wellFormed (.write 1 0x000 0) = false ∧ BusAccess.wellFormed (.write 4 0x015 0) = false ∧
        BusAccess.wellFormed (.read 4 0xFFC) = true ∧ BusAccess.wellFormed (.write 4 0xFFC 0) = true := by decide

/-- 30_encoding.md R103, R104. -/
theorem test_wellFormed_asmLine :
    AsmLine.wellFormed (.ldkey []) = false ∧ AsmLine.wellFormed (.ldkey (List.replicate 129 0)) = false ∧
      AsmLine.wellFormed (.ldkey (List.replicate 128 0)) = true ∧ AsmLine.wellFormed (.lddgst []) = false ∧
        AsmLine.wellFormed (.lddgst (List.replicate 65 0)) = false ∧
          AsmLine.wellFormed (.lddgst (List.replicate 64 0)) = true := by
  simp [AsmLine.wellFormed, Config.keyMax, Config.digestMax]

/-! ## Command words, bit by bit (30_encoding.md R90, R92, R94; V-C2 to V-C6) -/

theorem test_decode_hmac : decode 0b00000000000000000000000000000001 = .ok .hmac := by decide
theorem test_decode_trunc : decode 0b00000000000000000000000000000010 = .ok .trunc := by decide
theorem test_decode_format : decode 0b00000000000000000000000000000011 = .ok .format := by decide
theorem test_decode_generate : decode 0b00000000000000000000000000000100 = .ok .generate := by decide
theorem test_decode_clear : decode 0b00000000000000000000000000000101 = .ok .clear := by decide
theorem test_decode_op0 : decode 0x00000000 = .error (.reservedOpcode 0) := by decide
theorem test_decode_op6 : decode 0x00000006 = .error (.reservedOpcode 6) := by decide
theorem test_decode_opF : decode 0x0000000F = .error (.reservedOpcode 15) := by decide
theorem test_decode_rsvd_low : decode 0x00000014 = .error .reservedBits := by decide
theorem test_decode_rsvd_high : decode 0x80000001 = .error .reservedBits := by decide

theorem test_decodeTableWord :
    decodeTableWord 32 4 = some .generate ∧ decodeTableWord 32 0x14 = none ∧ decodeTableWord 40 4 = none := by decide

/-! ## States the tests start from -/

/-- ASCII "12345678901234567890", K20 of 95_test_vectors.md, as KEY words 0 to 4. -/
def k20 : List Byte := [0x31, 0x32, 0x33, 0x34, 0x35, 0x36, 0x37, 0x38, 0x39, 0x30,
  0x31, 0x32, 0x33, 0x34, 0x35, 0x36, 0x37, 0x38, 0x39, 0x30]

/-- A buffer that starts with these bytes and goes on with one byte. -/
def buffer (n : Nat) (bytes : List Byte) (fill : Byte) : Vector Byte n := Vector.ofFn fun i => bytes.getD i.val fill

/-- The inputs of V-H1 and V-G1. -/
def demo : State :=
  { State.reset with alg := 0, klen := 20, key := buffer 128 k20 0, counterLo := 1, digits := 8 }

/-- The same with a digest loaded: DIGEST[20..63] = 0xFF. -/
def withDigest (bytes : List Byte) : State :=
  { demo with digest := buffer 64 bytes 0xFF, dlen := BitVec.ofNat 7 bytes.length }

/-- The digest of V-H1 (Reference-HMAC). -/
def dgst1 : List Byte := [0x75, 0xA4, 0x8A, 0x19, 0xD4, 0xCB, 0xE1, 0x00, 0x64, 0x4E, 0x8A, 0xC1, 0x39, 0x7E, 0xEA, 0x74,
  0x7A, 0x2D, 0x33, 0xAB]

/-- A primitive that knows one input, that of V-H1, and fails with 0x5A (V-H9) on any other. -/
def stub : Primitive where
  table alg := if alg = 0 then some { L := 20, B := 64 } else none
  hash alg key msg :=
    if alg = 0 ∧ key = k20 ∧ msg.toList = [0, 0, 0, 0, 0, 0, 0, 1] then .ok dgst1 else .fail 0x5A

/-- A block with a command in flight. -/
def inFlight (w : Word) (s : State) : State := s.accept w

/-- ASCII codes of decimal digits. -/
def chars (ds : List Nat) : List Byte := ds.map fun d => BitVec.ofNat 8 (0x30 + d)

/-! ## The commands -/

/-- V-H1, and V-H10: the bytes past KLEN are ignored. -/
theorem test_hmac_vH1 :
    let t := demo.complete (runHmac stub { demo with key := buffer 128 k20 0xFF })
    t.digest.toList.take 20 = dgst1 ∧ t.digest.toList.drop 20 = List.replicate 44 0 ∧ t.dlen = 20 ∧
      t.statusWord = 0x00000002 := by decide

/-- V-H9. -/
theorem test_hmac_vH9 :
    let s := { demo with counterLo := 2, dlen := 7 }
    (s.complete (runHmac stub s)).statusWord = 0x005A0802 ∧ (s.complete (runHmac stub s)).dlen = 7 := by decide

/-- 42_truncation_selector.md R148, the RFC 4226 example: offset 10, 0x50EF7F19. -/
theorem test_trunc_rfc4226 :
    ∃ t, exec .trunc (withDigest [0x1F, 0x86, 0x98, 0x69, 0x0E, 0x02, 0xCA, 0x16, 0x61, 0x85, 0x50, 0xEF, 0x7F, 0x19, 0xDA,
        0x8E, 0x94, 0x5B, 0x55, 0x5A]) = .next t ∧
      t.offset = 10 ∧ t.trunc = 0x50EF7F19 ∧ t.err = 0 := ⟨_, rfl, by decide⟩

/-- Source S5, offset 15 of 20 bytes: the window is bytes 15 to 18, and its top bit is dropped. -/
theorem test_trunc_offset15 :
    ∃ t, exec .trunc (withDigest (List.replicate 15 0xEE ++ [0xFB, 0x56, 0xB1, 0x3D, 0xFF])) = .next t ∧
      t.offset = 15 ∧ t.trunc = 0x7B56B13D ∧ t.err = 0 := ⟨_, rfl, by decide⟩

/-- V-G2's code with its leading zero kept, in the CODE word images of 95_test_vectors.md. -/
theorem test_format_leadingZero :
    ∃ t, exec .format { demo with trunc := 907081804 } = .next t ∧ t.code.toList.take 8 = chars [0, 7, 0, 8, 1, 8, 0, 4] ∧
      t.memRead 0x300 = 0x30373038 ∧ t.memRead 0x304 = 0x31383034 ∧ t.memRead 0x308 = 0 := ⟨_, rfl, by decide⟩

/-- V-G26: 19 digits of 1094287082. -/
theorem test_format_19 :
    ∃ t, exec .format { demo with trunc := 1094287082, digits := 19 } = .next t ∧
      t.code.toList = chars [0, 0, 0, 0, 0, 0, 0, 0, 0, 1, 0, 9, 4, 2, 8, 7, 0, 8, 2] ∧ t.codeLen = 19 :=
  ⟨_, rfl, by decide⟩

/-- V-G1. -/
theorem test_generate_vG1 :
    let t := demo.complete (runGenerate stub demo)
    t.offset = 11 ∧ t.trunc = 0x41397EEA ∧ t.code.toList.take 8 = chars [9, 4, 2, 8, 7, 0, 8, 2] ∧ t.codeLen = 8 ∧
      t.dlen = 20 ∧ t.digest.toList.take 20 = dgst1 ∧ t.statusWord = 0x00000002 := by decide

/-- V-G23 and V-G25: the order of the checks. -/
theorem test_generate_order :
    (demo.complete (runGenerate stub { demo with digits := 0, klen := 0 })).statusWord = 0x00000302 ∧
      (demo.complete (runGenerate stub { demo with alg := 15, digits := 0, klen := 0 })).statusWord = 0x00000202 := by
  decide

/-- V-C1. -/
theorem test_clear_vC1 :
    ∃ t, exec .clear { withDigest dgst1 with trunc := 7, ie := true, digits := 6, wbusy := true } = .next t ∧
      t.key.toList.take 20 = List.replicate 20 0 ∧ t.digest.toList.take 20 = List.replicate 20 0 ∧ t.klen = 0 ∧
        t.dlen = 0 ∧ t.trunc = 0 ∧ t.counter = 0 ∧ t.digits = 6 ∧ t.ctrlWord = 0x100 ∧ t.statusWord = 0x00000006 :=
  ⟨_, rfl, by decide⟩

/-- V-C2: an illegal word is accepted, and completes with ERR 1. -/
theorem test_illegal_vC2 :
    ∃ t, step { inFlight 0 demo with inputs := [.engine] } = .next t ∧ t.statusWord = 0x00000102 ∧ t.inputs = [] :=
  ⟨_, rfl, by decide⟩

/-! ## The register window -/

/-- V-B1 to V-B3, V-B5, V-B11. -/
theorem test_bus_reads :
    (demo.access (.read 4 0x000)).2 = .data 0x544F5450 ∧ (demo.access (.read 4 0x004)).2 = .data 0x00010000 ∧
      (demo.access (.read 4 0x002)).2 = .busError ∧ (demo.access (.read 4 0x034)).2 = .data 0 ∧
        (demo.access (.read 4 0x010)).2 = .data 0 := by decide

/-- V-B7 to V-B10. -/
theorem test_bus_masks :
    (demo.memWrite 0x028 0xFFFFFFFF).memRead 0x028 = 0x7FFFFFFF ∧
      (demo.memWrite 0x008 0xFFFFFFFF).memRead 0x008 = 0x0000010F ∧
        (demo.memWrite 0x018 0x12345678).memRead 0x018 = 0x00000078 ∧
          (demo.memWrite 0x01C 0xFFFFFFFF).memRead 0x01C = 0x0000007F := by decide

/-- V-B6, and the big-endian lanes of KEY (20_memory.md R67). -/
theorem test_bus_key :
    (demo.memWrite 0x110 0x0A0B0C0D).memRead 0x110 = 0 ∧
      ((demo.memWrite 0x110 0x0A0B0C0D).key.toList.drop 15).take 6 = [0x36, 0x0A, 0x0B, 0x0C, 0x0D, 0] := by decide

/-- V-B12. -/
theorem test_bus_w1c :
    State.statusWord (State.memWrite { demo with done := true, wbusy := true, err := 3 } 0x00C 0xFFFFFFFF) = 0x00000300 := by
  decide

/-- V-W1 and V-W2 with FORMAT for GENERATE: a DIGITS write before the completion is lost and sets WBUSY, after it is taken. -/
theorem test_busyWrite_schedules :
    (∃ t, Host.Core.run Sys2Proof.core 2 { inFlight 3 demo with inputs := [.bus (.write 4 0x014 6), .engine] } = .next t ∧
        t.codeLen = 8 ∧ t.digits = 8 ∧ t.statusWord = 0x00000006) ∧
      ∃ t, Host.Core.run Sys2Proof.core 2 { inFlight 3 demo with inputs := [.engine, .bus (.write 4 0x014 6)] } = .next t ∧
        t.codeLen = 8 ∧ t.digits = 6 ∧ t.statusWord = 0x00000002 := ⟨⟨_, rfl, by decide⟩, _, rfl, by decide⟩

/-- `ldkey` of P1. -/
theorem test_asm_ldkey : assemble 0 [.ldkey k20] =
    [.bus (.write 4 0x018 0x14), .bus (.write 4 0x100 0x31323334), .bus (.write 4 0x104 0x35363738),
      .bus (.write 4 0x108 0x39303132), .bus (.write 4 0x10C 0x33343536), .bus (.write 4 0x110 0x37383930)] := by decide

/-- "check ERR = 0" and "read CODE_LEN bytes of CODE" (44_sequencer.md R184) on the end state of a GENERATE of "94287082"
(P1), and after INVALID_DIGITS (P3). -/
theorem test_host_readsCode :
    (∃ t, checkAndReadCode { demo with code := buffer 19 (chars [9, 4, 2, 8, 7, 0, 8, 2]) 0, codeLen := 8, done := true,
                                       responses := [.data 2] } = .next (.code (chars [9, 4, 2, 8, 7, 0, 8, 2]), t)) ∧
      ∃ t, checkAndReadCode { demo with responses := [.data 0x302] } = .next (.failed 3 0, t) := ⟨⟨_, rfl⟩, _, rfl⟩

/-- `generate_custom` as far as `poll`, with floor(59 / 30) = 1 (R184, P1), and no program for a Step of 0. -/
theorem test_host_program :
    generateCustomProgram 1 true 30 6 k20 59 =
      some [.wr (.name .ctrl) 0x101, .wr (.name .digits) 6, .ldkey k20, .ldctr 1, .cmd .generate, .poll] ∧
      generateCustomProgram 1 true 0 6 k20 59 = none := by decide

/-- P4's `cmd 0x00000010` as a `wr` of CMD: W 010 00000010 (log 24). -/
theorem test_asm_literalWord : assemble 0 [.wr (.name .cmd) 0x00000010] = [.bus (.write 4 0x010 0x00000010)] := by decide

/-- `ldctr` and `cmd` of P1, and 59 div 30 = 1 (40_message_port.md R113). -/
theorem test_asm_ldctr : hostCounter 59 30 = some 1 ∧ hostCounter 59 0 = none ∧ assemble 3 [.ldctr 1, .cmd .generate, .poll] =
    [.bus (.write 4 0x024 0), .bus (.write 4 0x020 1), .bus (.write 4 0x010 4), .poll 3] := by decide

/-- `hmacFn_is_rfc2104` (41_hmac.md R122) can hold: a primitive built from the formula meets it. -/
theorem test_rfc2104_satisfiable (sha : BitVec 4 → List Byte → List Byte) :
    ∃ p : Primitive, p.table = platform.table ∧ HmacFnIsRfc2104 sha p :=
  ⟨{ table := platform.table
     hash := fun alg key msg =>
       match platform.table alg with
       | some desc => .ok (rfc2104 (sha alg) desc.B key msg.toList)
       | none => .fail 0 }, rfl, by intro alg desc key msg _ h _ _; simp only at h ⊢; rw [h]⟩

/-! ## Witnesses: the hypotheses of each obligation, met -/

theorem key_ne_of_first {s t : State} (h : t.key[0] ≠ s.key[0]) : t.key ≠ s.key := fun e => h (by rw [e])

theorem witness_RegisterMapIsExact :
    regAt 0x030 = some .codeLen ∧ regAt 0x034 = none ∧ regAt 0x0FC = none ∧ regAt 0x100 = some (.key 0) ∧
      regAt 0x17C = some (.key 31) ∧ regAt 0x180 = none ∧ regAt 0x1FC = none ∧ regAt 0x200 = some (.digest 0) ∧
        regAt 0x23C = some (.digest 15) ∧ regAt 0x240 = none ∧ regAt 0x2FC = none ∧ regAt 0x300 = some (.code 0) ∧
          regAt 0x310 = some (.code 4) ∧ regAt 0x314 = none ∧ regAt 0x001 = none := by decide

theorem witness_AlgTableIsWellFormed : platform.table 2 = some { L := 64, B := 128 } := rfl

theorem witness_PrimitiveAnswersDigestLength : platform.table 0 = some { L := 20, B := 64 } := rfl

theorem witness_ResetEventResetsAnyState :
    State.inputs { inFlight 4 demo with inputs := [.rst, .engine] } = .rst :: [.engine] := rfl

theorem witness_MalformedAccessIsBusError :
    ((2 : Nat) ≠ 4 ∨ (0x000 : Offset).toNat % 4 ≠ 0) ∧ ((4 : Nat) ≠ 4 ∨ (0x002 : Offset).toNat % 4 ≠ 0) ∧
      ((4 : Nat) ≠ 4 ∨ (0x015 : Offset).toNat % 4 ≠ 0) ∧ ((8 : Nat) ≠ 4 ∨ (0xFFF : Offset).toNat % 4 ≠ 0) := by decide

theorem witness_StepPerformsHostAccess :
    State.inputs { demo with inputs := [.bus (.write 4 0x014 6)] } = .bus (.write 4 0x014 6) :: [] := rfl

theorem witness_HostProgramFaultsOnBusError :
    ((4 : Nat) ≠ 4 ∨ (0x002 : Offset).toNat % 4 ≠ 0) ∧
      programStep { demo with inputs := [.bus (.read 4 0x002)] } = .fault .hostBusError := ⟨by decide, rfl⟩

/-- Each clause at the ends of its range. -/
theorem witness_ReadAnswersRegister :
    (demo.memRead 0x034 = 0 ∧ demo.memRead 0x0FC = 0 ∧ demo.memRead 0x100 = 0 ∧ demo.memRead 0x17C = 0 ∧
        demo.memRead 0x180 = 0 ∧ demo.memRead 0x1FC = 0 ∧ demo.memRead 0x240 = 0 ∧ demo.memRead 0x2FC = 0 ∧
          demo.memRead 0x314 = 0 ∧ demo.memRead 0xFFC = 0) ∧
      (let s := { demo with trunc := 0x41397EEA, codeLen := 19, counterHi := 0xFFFFFFFF, offset := 15, ie := true,
                            err := 15, herr := 0xFF }
       s.memRead 0x008 = 0x100 ∧ s.memRead 0x00C = 0x00FF0F00 ∧ s.memRead 0x020 = 1 ∧ s.memRead 0x024 = 0xFFFFFFFF ∧
         s.memRead 0x028 = 0x41397EEA ∧ s.memRead 0x02C = 15 ∧ s.memRead 0x030 = 19) ∧
        (0x23C : Offset).toNat = 0x200 + 4 * 15 ∧ (0x310 : Offset).toNat = 0x300 + 4 * 4 := by decide

/-- V-H1's first digest word (20_memory.md R67), and CODE[19] under a code of 19 characters. -/
theorem test_bus_lanes :
    State.memRead { demo with digest := buffer 64 dgst1 0 } 0x200 = 0x75A48A19 ∧
      State.memRead { demo with code := buffer 19 [] 0x31 } 0x310 = 0x31313100 := by decide

/-- The first and the last word of both buffers. -/
theorem witness_IdleWriteSetsRegister :
    demo.phase = .idle ∧ (0x100 : Offset).toNat = 0x100 + 4 * 0 ∧ (0x17C : Offset).toNat = 0x100 + 4 * 31 ∧
      (0x200 : Offset).toNat = 0x200 + 4 * 0 ∧ (0x23C : Offset).toNat = 0x200 + 4 * 15 := by
  decide

/-- The ends of each range of read-only and unmapped offsets. -/
theorem witness_IdleWriteToReadOnlyIsIgnored :
    demo.phase = .idle ∧ (0x034 ≤ (0x034 : Offset).toNat ∧ (0x0FC : Offset).toNat < 0x100) ∧
      (0x180 ≤ (0x180 : Offset).toNat ∧ (0x1FC : Offset).toNat < 0x200) ∧ 0x240 ≤ (0x240 : Offset).toNat ∧
        demo.memWrite 0x0FC 5 = demo ∧ demo.memWrite 0x180 5 = demo ∧ demo.memWrite 0x1FC 5 = demo ∧
          demo.memWrite 0x240 5 = demo ∧ demo.memWrite 0x310 5 = demo :=
  ⟨rfl, by decide, by decide, by decide, rfl, rfl, rfl, rfl, rfl⟩

theorem witness_ReadBackKeepsStoredBits :
    demo.phase = .idle ∧ (0x100 ≤ (0x100 : Offset).toNat ∧ (0x17C : Offset).toNat < 0x180) ∧
      ((0x23C : Offset).toNat % 4 = 0 ∧ 0x200 ≤ (0x23C : Offset).toNat ∧ (0x23C : Offset).toNat < 0x240) ∧
        (demo.memWrite 0x17C 5).memRead 0x17C = 0 ∧ (demo.memWrite 0x200 5).memRead 0x200 = 5 := by decide

theorem witness_WriteLeavesOtherOffsets :
    (0x014 : Offset) ≠ 0x018 ∧ (0x010 : Offset) ≠ 0x014 ∧ (0x018 : Offset) ≠ 0x00C ∧
      (demo.memWrite 0x014 6).memRead 0x014 ≠ demo.memRead 0x014 := by decide

/-- The last byte of DIGEST, the last stored byte of CODE, and CODE[19]. -/
theorem witness_BufferWordsAreBigEndian :
    (0x23C : Offset).toNat = 0x200 + 4 * 15 ∧ (0x310 : Offset).toNat = 0x300 + 4 * 4 ∧
      (let s := { demo with digest := buffer 64 [] 0x11, code := buffer 19 [] 0x39 }
       s.memRead 0x23C % 256 = 0x11 ∧ (s.memRead 0x310).toNat / 256 ^ (3 - 2) % 256 = 0x39 ∧
         (s.memRead 0x310).toNat % 256 = 0) := by decide

/-- Both parts, and each of the three outcomes of the second. -/
theorem witness_BusyWriteIsIgnoredAndFlagSticks :
    ((inFlight 4 demo).phase = .busy ∧ (0xFFC : Offset).toNat % 4 = 0 ∧ (0xFFC : Offset) ≠ 0x00C) ∧
      (∃ t, step { demo with wbusy := true, inputs := [.bus (.write 4 0x00C 2)] } = .next t ∧ t.wbusy = true) ∧
        (∃ t, step { demo with wbusy := true, inputs := [.rst] } = .next t ∧ t.wbusy = false) ∧
          ∃ t, step { demo with wbusy := true, inputs := [.bus (.write 4 0x00C 4)] } = .next t ∧ t.wbusy = false :=
  ⟨by decide, ⟨_, rfl, by decide⟩, ⟨_, rfl, by decide⟩, _, rfl, by decide⟩

theorem witness_OutputsReadOldWhileBusy :
    (inFlight 3 demo).phase = .busy ∧ (0x300 : Offset) ≠ 0x00C := by decide

/-- Each of the three causes. -/
theorem witness_KeyChangesOnlyByHostClearOrReset :
    (∃ t, step { demo with inputs := [.bus (.write 4 0x100 0)] } = .next t ∧ t.key ≠ demo.key) ∧
      (∃ t, step { inFlight 5 demo with inputs := [.engine] } = .next t ∧ t.key ≠ (inFlight 5 demo).key ∧ t.phase = .idle) ∧
        ∃ t, step { demo with inputs := [.rst] } = .next t ∧ t.key ≠ demo.key :=
  ⟨⟨_, rfl, key_ne_of_first (by decide)⟩, ⟨_, rfl, key_ne_of_first (by decide), rfl⟩, _, rfl, key_ne_of_first (by decide)⟩

theorem witness_CommandWriteIsAccepted :
    demo.phase = .idle ∧ (demo.access (.write 4 0x010 0xFFFFFFFF)).1.lcmd = 0xFFFFFFFF := by decide

theorem witness_StepRunsDecodedCommand :
    (∀ l ∈ [[.engine], [], [.poll 0]],
      State.phase { inFlight 2 demo with inputs := l } = .busy ∧ State.inputs { inFlight 2 demo with inputs := l } = l) ∧
      decode (inFlight 2 demo).lcmd = .ok .trunc := by decide

theorem witness_IllegalWordCompletesWithIllegalCmd :
    demo.phase = .idle ∧ ((0 : Word).toNat = 0 ∨ 6 ≤ (0 : Word).toNat) ∧ ((6 : Word).toNat = 0 ∨ 6 ≤ (6 : Word).toNat) ∧
      ((0x80000001 : Word).toNat = 0 ∨ 6 ≤ (0x80000001 : Word).toNat) := by decide

/-- Both parts; in the second a DIGITS write falls between acceptance and completion. -/
theorem witness_FailedCommandWritesOnlyStatus :
    ((inFlight 3 { demo with digits := 0 }).phase = .busy ∧
      ∃ t, step { inFlight 3 { demo with digits := 0 } with inputs := [.engine] } = .next t ∧ t.err ≠ 0) ∧
      State.phase { demo with digits := 0 } = .idle ∧
        ∃ t, Host.Core.run Sys2Proof.core 3
            { demo with digits := 0, inputs := [.bus (.write 4 0x010 3), .bus (.write 4 0x014 6), .engine] } = .next t ∧
          t.err ≠ 0 ∧ t.digits = 0 ∧ t.wbusy = true :=
  ⟨⟨by decide, _, rfl, by decide⟩, by decide, _, rfl, by decide⟩

theorem witness_RetryRepeatsTheError :
    ∃ t, exec .format { demo with digits := 20 } = .next t ∧ t.err ≠ 0 := ⟨_, rfl, by decide⟩

theorem witness_CommandFrameOfTheWindow :
    ∃ t, exec .trunc (withDigest dgst1) = .next t ∧ ¬ mayChange .trunc 0x300 ∧ ¬ mayChange .trunc 0x01C ∧
      ¬ mayChange .trunc 0x23C ∧ ¬ mayChange .clear 0x014 ∧ ¬ mayChange .clear 0x314 ∧ ¬ mayChange .hmac 0x240 :=
  ⟨_, rfl, by simp [mayChange]⟩

/-- Each clause: up, acknowledged, dropped by an acceptance, disabled, unmoved while busy, and raised by a completion. -/
theorem witness_IrqFollowsDoneAndEnable :
    State.irq { demo with done := true, ie := true } = true ∧ (2 : Word).getLsbD 1 = true ∧
      State.phase { demo with done := true, ie := true } = .idle ∧ (0 : Word).getLsbD 8 = false ∧
        (inFlight 4 demo).phase = .busy ∧
          ∃ t, step { inFlight 3 demo with inputs := [.engine] } = .next t ∧ t.done = true ∧
            (inFlight 3 demo).done = false := ⟨by decide, by decide, by decide, by decide, by decide, _, rfl, by decide⟩

theorem witness_MessageIsBigEndianCounter :
    let s := { demo with counterHi := 0x01020304, counterLo := 0x05060708 }
    s.message[0] = 0x01 ∧ s.message[3] = 0x04 ∧ s.message[4] = 0x05 ∧ s.message[7] = 0x08 := by decide

theorem witness_HmacStoresDigest :
    platform.table demo.alg = some { L := 20, B := 64 } ∧ 1 ≤ demo.klen.toNat ∧ demo.klen.toNat ≤ 128 ∧
      (128 : BitVec 8).toNat ≤ 128 := ⟨rfl, by decide⟩

/-- KLEN 0, the least too long, and the greatest. -/
theorem witness_HmacReportsFirstInputError :
    platform.table demo.alg = some { L := 20, B := 64 } ∧ State.klen { demo with klen := 0 } = 0 ∧
      128 < (State.klen { demo with klen := 129 }).toNat ∧ 128 < (State.klen { demo with klen := 255 }).toNat :=
  ⟨rfl, by decide⟩

/-- Each cause, with two primitives that differ. -/
theorem witness_InputErrorsNeverReachPrimitive :
    (let q : Primitive := { table := stub.table, hash := fun _ _ _ => .fail 1 }
     stub.table = q.table ∧ stub.hash 0 k20 (be8 1) ≠ q.hash 0 k20 (be8 1)) ∧
      stub.table (State.alg { demo with alg := 3 }) = none ∧ (State.klen { demo with klen := 0 }).toNat = 0 ∧
        128 < (State.klen { demo with klen := 129 }).toNat ∧ (State.digits { demo with digits := 0 }).toNat = 0 ∧
          19 < (State.digits { demo with digits := 20 }).toNat := ⟨⟨rfl, by decide⟩, by decide⟩

theorem key_agrees_below_klen (j : Nat) (h : j < 128) (hk : j < demo.klen.toNat) :
    (buffer 128 k20 0xFF)[j] = demo.key[j] := by
  have hl : j < k20.length := hk
  simp [buffer, demo, List.getD_eq_getElem?_getD, hl]

theorem witness_KeyBytesPastKlenAreNotUsed :
    (∀ (j : Nat) (_ : j < 128), j < demo.klen.toNat → (buffer 128 k20 0xFF)[j] = demo.key[j]) ∧
      (buffer 128 k20 0xFF)[20] ≠ demo.key[20] := ⟨key_agrees_below_klen, by decide⟩

/-- The shortest digest that can hold a window, offset 15 in 20 bytes, and a full DIGEST. -/
theorem witness_TruncSelectsWindow :
    (∀ b ∈ [([1, 2, 3, 0xF0] : List Byte), List.replicate 19 0 ++ [0xFF], List.replicate 64 0xAF],
      let s := withDigest b
      1 ≤ s.dlen.toNat ∧ s.dlen.toNat ≤ 64 ∧ s.digest.toList.getD (s.dlen.toNat - 1) 0 = b.getLastD 0 ∧
        (b.getLastD 0).toNat % 16 + 4 ≤ s.dlen.toNat) := by decide

/-- DLEN 0, 65 and 127, and a window one byte too long. -/
theorem witness_TruncReportsFirstError :
    (0 : BitVec 7).toNat = 0 ∧ 64 < (65 : BitVec 7).toNat ∧ 64 < (127 : BitVec 7).toNat ∧
      (∃ t, exec .trunc (withDigest (List.replicate 17 0 ++ [0x0F])) = .next t ∧ t.err = 7) ∧
        ∃ t, exec .trunc { demo with dlen := 65 } = .next t ∧ t.err = 6 :=
  ⟨by decide, by decide, by decide, ⟨_, rfl, by decide⟩, _, rfl, by decide⟩

/-- Two digests that differ outside the window and the last byte, at DIGEST[0] and DIGEST[63]. -/
theorem witness_TruncReadsOnlyWindowAndLastByte :
    let s := withDigest dgst1
    let other := buffer 64 (0 :: dgst1.drop 1) 0
    1 ≤ s.dlen.toNat ∧ s.dlen.toNat ≤ 64 ∧ other[19] = s.digest[19] ∧ s.digest[19].toNat % 16 = 11 ∧
      (other.toList.drop 11).take 4 = (s.digest.toList.drop 11).take 4 ∧ other[0] ≠ s.digest[0] ∧ other[63] ≠ s.digest[63] := by
  decide

theorem witness_Pow10IsExact : (0 : Nat) ≤ 19 ∧ (19 : Nat) ≤ 19 ∧ (pow10 19).toNat = 10000000000000000000 := by decide

theorem witness_FormatRendersDecimal :
    (1 ≤ (1 : Word).toNat ∧ (1 : Word).toNat ≤ 19) ∧ 1 ≤ (19 : Word).toNat ∧ (19 : Word).toNat ≤ 19 := by decide

theorem witness_FormatRejectsDigits :
    (0 : Word).toNat = 0 ∧ 19 < (20 : Word).toNat ∧ 19 < (0xFFFFFFFF : Word).toNat := by decide

theorem witness_CodeReadsAsTruncModulo :
    (1 ≤ (9 : Word).toNat ∧ (9 : Word).toNat ≤ 19) ∧ 10 ≤ (10 : Word).toNat ∧ (10 : Word).toNat ≤ 19 := by decide

theorem witness_GenerateStoresAllStages :
    platform.table demo.alg = some { L := 20, B := 64 } ∧ 1 ≤ demo.klen.toNat ∧ demo.klen.toNat ≤ 128 ∧
      1 ≤ demo.digits.toNat ∧ demo.digits.toNat ≤ 19 := ⟨rfl, by decide⟩

/-- DIGITS 0 and 20, and KLEN 0 and 129 with DIGITS at both ends. -/
theorem witness_GenerateReportsFirstInputError :
    platform.table demo.alg = some { L := 20, B := 64 } ∧ (0 : Word).toNat = 0 ∧ 19 < (20 : Word).toNat ∧
      1 ≤ (1 : Word).toNat ∧ (19 : Word).toNat ≤ 19 ∧ (0 : BitVec 8).toNat = 0 ∧ 128 < (129 : BitVec 8).toNat :=
  ⟨rfl, by decide⟩

theorem witness_GenerateIsTheComposition :
    platform.table demo.alg = some { L := 20, B := 64 } ∧ 1 ≤ demo.klen.toNat ∧ demo.klen.toNat ≤ 128 ∧
      1 ≤ demo.digits.toNat ∧ demo.digits.toNat ≤ 19 := ⟨rfl, by decide⟩

/-- Two states that agree on GENERATE's inputs and differ in KEY past KLEN, in TRUNC and in IE. -/
theorem witness_GenerateIsDeterministic :
    let s' := { demo with key := buffer 128 k20 0xFF, trunc := 5, ie := true }
    demo.alg = s'.alg ∧ demo.klen = s'.klen ∧ (∀ (j : Nat) (_ : j < 128), j < demo.klen.toNat → demo.key[j] = s'.key[j]) ∧
      demo.counterHi = s'.counterHi ∧ demo.counterLo = s'.counterLo ∧ demo.digits = s'.digits ∧ demo.trunc ≠ s'.trunc :=
  ⟨rfl, rfl, fun j h hk => (key_agrees_below_klen j h hk).symm, rfl, rfl, rfl, by decide⟩

/-- A state with a rendered code meets the invariant, and steps. -/
theorem witness_EveryStepKeepsInvariant :
    State.Inv (inFlight 2 { withDigest dgst1 with code := buffer 19 (chars [9, 4]) 0, codeLen := 2 }) ∧
      ∃ t, step (inFlight 2 { withDigest dgst1 with code := buffer 19 (chars [9, 4]) 0, codeLen := 2 }) = .next t ∧
        t.trunc = 0x41397EEA :=
  ⟨⟨by decide, by decide, by decide, by decide, by decide, by decide⟩, _, rfl, by decide⟩

theorem witness_CompletionIgnoresHostAccesses :
    (inFlight 3 demo).phase = .busy ∧
      ∃ t, Host.Core.run Sys2Proof.core 3
          { inFlight 3 demo with inputs := [.bus (.write 4 0x028 5), .bus (.read 2 0x001), .engine] } = .next t ∧
        t.trunc = 0 ∧ t.codeLen = 8 ∧ t.wbusy = true := ⟨by decide, _, rfl, by decide⟩

theorem witness_CommandInFlightCompletes : (inFlight 4 demo).phase = .busy := by decide

/-- A poll with two reads that see BUSY = 1. -/
theorem witness_PollEndsWithCompletedStatus :
    State.phase { inFlight 3 demo with inputs := [.poll 2] } = .busy ∧
      ∃ u, Host.Core.run Sys2Proof.core 4 { inFlight 3 demo with inputs := [.poll 2] } = .next u ∧
        u.responses = [.data 2, .data 1, .data 1] := ⟨by decide, _, rfl, by decide⟩

/-- With nothing left, with a turn of the engine left, and with a reset left. -/
theorem witness_EndedRunHoldsState :
    demo.runEnded ∧ State.runEnded { demo with inputs := [.engine] } ∧ State.runEnded { demo with inputs := [.rst] } ∧
      (State.inputs { demo with inputs := [.engine] }).head? ≠ some .rst ∧
        (State.inputs { demo with inputs := [.rst] }).head? = some .rst :=
  ⟨⟨by simp [demo, State.reset], rfl⟩, ⟨by simp [Input.isHostAccess], rfl⟩, ⟨by simp [Input.isHostAccess], rfl⟩,
    by decide, by decide⟩

theorem witness_LdkeyLoadsKey :
    demo.phase = .idle ∧ 1 ≤ k20.length ∧ k20.length ≤ 128 ∧ 1 ≤ ([7] : List Byte).length ∧
      (List.replicate 128 (7 : Byte)).length ≤ 128 := by
  simp [k20, demo, State.reset]

theorem witness_LddgstAndLdctrLoad :
    demo.phase = .idle ∧ 1 ≤ ([7] : List Byte).length ∧ (List.replicate 64 (7 : Byte)).length ≤ 64 := by
  simp [demo, State.reset]

theorem witness_GenerateCustomReturnsCode :
    demo.phase = .idle ∧ platform.table 0 = some { L := 20, B := 64 } ∧ 1 ≤ k20.length ∧ k20.length ≤ 128 ∧
      (0 : Word).toNat = 0 ∧ 19 < (20 : Word).toNat ∧ 1 ≤ (1 : Word).toNat ∧ (19 : Word).toNat ≤ 19 :=
  ⟨rfl, rfl, by decide⟩

end Sys2Proof.Tests
end

section
/-! The facts about ALG_TABLE and DEFAULT_ALG (00_scope.md R6, R7) that hold for every value of the OPEN parameters. -/

namespace Sys2Proof.Proofs.AlgTable

open Sys2Proof Sys2Proof.Machine

theorem wellFormed_iff (desc : AlgDesc) : desc.wellFormed = true ↔ 20 ≤ desc.L ∧ desc.L ≤ 64 := by
  simp [AlgDesc.wellFormed, Config.digestMax]

@[simp] theorem algTable_zero : algTable 0 = some { L := 20, B := 64 } := rfl
@[simp] theorem algTable_one : algTable 1 = some { L := 32, B := 64 } := rfl
@[simp] theorem algTable_two : algTable 2 = some { L := 64, B := 128 } := rfl

/-- The fixed entries are well formed as they stand; a configured one passed the filter of `algTable`. -/
theorem wellFormed_of_algTable {alg : BitVec 4} {desc : AlgDesc} (h : algTable alg = some desc) :
    desc.wellFormed = true := by
  unfold algTable at h
  split at h
  · cases h; decide
  · cases h; decide
  · cases h; decide
  · exact (Option.filter_eq_some_iff.mp h).2

/-- Where the configured choice is absent, DEFAULT_ALG is the fixed entry 0. -/
theorem algTable_defaultAlg_isSome : (algTable defaultAlg).isSome = true := by
  unfold defaultAlg
  split
  next hpresent => exact hpresent
  next => rfl

/-- Settles O4, by the filter of `algTable` on the configured entries. -/
theorem algTableIsWellFormed : Obligations.AlgTableIsWellFormed :=
  ⟨algTable_zero, algTable_one, algTable_two,
    fun _ desc h => (wellFormed_iff desc).mp (wellFormed_of_algTable h), wellFormed_iff⟩

/-- Settles O5: the reset value of CTRL.ALG is `defaultAlg`, whose entry is present. -/
theorem defaultAlgIsPresent : Obligations.DefaultAlgIsPresent :=
  Option.isSome_iff_exists.mp algTable_defaultAlg_isSome

end Sys2Proof.Proofs.AlgTable
end

section
/-! The register map read backwards, and the decoder's words: which offset a register has that an offset names
(20_memory.md R62), and which word decodes to a command (30_encoding.md R92, R94). -/

namespace Sys2Proof.Proofs.Inversion

open Sys2Proof Sys2Proof.Machine

/-! ## The register map -/

theorem off_of_fixedReg {word : Nat} {r : Reg} (h : fixedReg word = some r) : r.off = BitVec.ofNat 12 (4 * word) := by
  unfold fixedReg at h
  split at h <;> cases h <;> rfl

/-- The map gives an offset to the register that the offset names. -/
theorem off_of_regAt {off : Offset} {r : Reg} (h : regAt off = some r) : r.off = off := by
  unfold regAt at h
  split at h
  · cases h
  next haligned =>
    have hword : BitVec.ofNat 12 (4 * (off.toNat / 4)) = off := (offset_eq_ofNat (by omega)).symm
    dsimp only at h
    split at h
    next hkey =>
      cases h
      exact (offset_eq_ofNat (by simp only; omega)).symm
    next =>
      split at h
      next hdigest =>
        cases h
        exact (offset_eq_ofNat (by simp only; omega)).symm
      next =>
        split at h
        next hcode =>
          cases h
          exact (offset_eq_ofNat (by simp only; omega)).symm
        next => exact (off_of_fixedReg h).trans hword

theorem off_key_toNat (k : Fin 32) : (Reg.off (.key k)).toNat = 0x100 + 4 * k.val := by
  simp only [Reg.off, BitVec.toNat_ofNat]
  omega

theorem off_digest_toNat (k : Fin 16) : (Reg.off (.digest k)).toNat = 0x200 + 4 * k.val := by
  simp only [Reg.off, BitVec.toNat_ofNat]
  omega

theorem off_code_toNat (k : Fin 5) : (Reg.off (.code k)).toNat = 0x300 + 4 * k.val := by
  simp only [Reg.off, BitVec.toNat_ofNat]
  omega

/-! ## The decoder -/

theorem opcodeOf_of_instrOfOpcode {op : BitVec 4} {i : Instr} (h : instrOfOpcode op = some i) : op = opcodeOf i := by
  apply BitVec.eq_of_toNat_eq
  unfold instrOfOpcode at h
  split at h <;> cases h <;> assumption

theorem rsvdField_append_opField (w : Word) : rsvdField w ++ opField w = w :=
  BitVec.extractLsb'_append_extractLsb'_eq_extractLsb' rfl |>.trans BitVec.extractLsb'_eq_self

/-- A word that decodes to a command is that command's word. -/
theorem eq_encode_of_decode {w : Word} {i : Instr} (h : decode w = .ok i) : w = encode i := by
  unfold decode at h
  split at h
  · cases h
  next hrsvd =>
    split at h
    next j hop =>
      cases h
      rw [← rsvdField_append_opField w, not_not.mp hrsvd, opcodeOf_of_instrOfOpcode hop, encode]
    next => cases h

end Sys2Proof.Proofs.Inversion
end

section
/-! KEY as the host meets it: what an access answers does not depend on it, and few events change it
(10_state.md R30, 41_hmac.md R128). -/

namespace Sys2Proof.Proofs.Key

open Sys2Proof Sys2Proof.Machine Sys2Proof.Proofs.Inversion

/-! ## Two states that differ in KEY alone -/

theorem readReg_withKey (s : State) (key : Vector Byte 128) (r : Reg) :
    State.readReg { s with key := key } r = s.readReg r := by
  cases r <;> rfl

theorem memRead_withKey (s : State) (key : Vector Byte 128) (off : Offset) :
    State.memRead { s with key := key } off = s.memRead off := by
  unfold State.memRead
  cases regAt off with
  | none => rfl
  | some r => exact readReg_withKey s key r

theorem writeReg_withKey (s : State) (key : Vector Byte 128) (r : Reg) (v : Word) :
    ∃ key', State.writeReg { s with key := key } r v = { s.writeReg r v with key := key' } := by
  cases r <;> exact ⟨_, rfl⟩

theorem memWrite_withKey (s : State) (key : Vector Byte 128) (off : Offset) (v : Word) :
    ∃ key', State.memWrite { s with key := key } off v = { s.memWrite off v with key := key' } := by
  rcases memWrite_cases s off v with ⟨rfl, e⟩ | ⟨hoff, hbusy, e⟩ | ⟨hoff, hidle, r, hr, e⟩ | ⟨_, hidle, hr, e⟩
  · exact ⟨key, rfl⟩
  · rw [e]
    exact ⟨key, memWrite_busy (s := { s with key := key }) hoff hbusy v⟩
  · rw [e, memWrite_idle (s := { s with key := key }) hoff hidle hr]
    exact writeReg_withKey s key r v
  · rw [e]
    exact ⟨key, memWrite_unmapped (s := { s with key := key }) hidle hr v⟩

/-- An access answers the same in two states that differ in KEY alone, and leaves them different in KEY alone. -/
theorem access_withKey (s : State) (key : Vector Byte 128) (a : BusAccess) :
    (State.access { s with key := key } a).2 = (s.access a).2 ∧
      ∃ key', (State.access { s with key := key } a).1 = { (s.access a).1 with key := key' } := by
  unfold State.access
  split
  · cases a with
    | read width off => exact ⟨congrArg Response.data (memRead_withKey s key off), key, rfl⟩
    | write width off v => exact ⟨rfl, memWrite_withKey s key off v⟩
  · exact ⟨rfl, key, rfl⟩

/-- Settles O21: no answer of `access` looks at KEY, and `irq` is DONE and IE. -/
theorem keyIsInvisibleToHost : Obligations.KeyIsInvisibleToHost := by
  intro s key a
  obtain ⟨hanswer, hstate⟩ := access_withKey s key a
  exact ⟨hanswer, rfl, hstate⟩

/-! ## What changes KEY -/

theorem writeReg_key_eq_or (s : State) (r : Reg) (v : Word) : (s.writeReg r v).key = s.key ∨ ∃ k, r = .key k := by
  cases r with
  | key k => exact .inr ⟨k, rfl⟩
  | _ => exact .inl (by simp [State.writeReg])

/-- An access that changes KEY is a write of a KEY word to an idle block. -/
theorem access_key_ne {s : State} {a : BusAccess} (h : (s.access a).1.key ≠ s.key) :
    s.phase = .idle ∧ ∃ off v, a = .write 4 off v ∧ 0x100 ≤ off.toNat ∧ off.toNat < 0x180 := by
  rcases access_cases s a with e | ⟨off, v, rfl, _, e⟩
  · exact absurd (congrArg State.key e) h
  rw [e] at h
  rcases memWrite_cases s off v with ⟨_, e⟩ | ⟨_, _, e⟩ | ⟨_, hidle, r, hr, e⟩ | ⟨_, _, _, e⟩ <;> rw [e] at h
  · exact absurd (writeStatus_key s v) h
  · exact absurd (noteBusyWrite_key s) h
  · obtain ⟨k, rfl⟩ := (writeReg_key_eq_or s r v).resolve_left h
    have hoff := off_key_toNat k
    rw [off_of_regAt hr] at hoff
    exact ⟨hidle, off, v, rfl, by omega, by omega⟩
  · exact absurd rfl h

/-- A completion that changes KEY is that of CLEAR. -/
theorem exec_key_ne {i : Instr} {s t : State} (h : exec i s = .next t) (hkey : t.key ≠ s.key) : i = .clear := by
  rcases exec_cases h with ⟨e, _, rfl⟩ | ⟨u, hu, rfl⟩
  · exact absurd (failWith_key s e) hkey
  · have hframe := runOf_frame hu
    cases i with
    | clear => rfl
    | hmac | trunc | format | generate => exact absurd (congrArg State.key hframe) hkey

theorem exec_phase {i : Instr} {s t : State} (h : exec i s = .next t) : t.phase = .idle := by
  rcases exec_cases h with ⟨_, _, rfl⟩ | ⟨_, _, rfl⟩ <;> rfl

/-- An engine's turn that changes KEY completes CLEAR. -/
theorem engineTurn_key_ne {s t : State} (h : engineTurn s = .next t) (hkey : t.key ≠ s.key) :
    s.phase = .busy ∧ s.lcmd = encode .clear ∧ t.phase = .idle := by
  rcases engineTurn_cases h with ⟨_, rfl⟩ | ⟨_, rfl⟩ | ⟨i, hbusy, hdecode, hexec⟩
  · exact absurd rfl hkey
  · exact absurd (failWith_key s _) hkey
  · obtain rfl := exec_key_ne hexec hkey
    exact ⟨hbusy, eq_encode_of_decode hdecode, exec_phase hexec⟩

/-- Settles O22, by the four things a step can do. -/
theorem keyChangesOnlyByHostClearOrReset : Obligations.KeyChangesOnlyByHostClearOrReset := by
  intro s t hstep hkey
  rcases step_cases hstep with ⟨l, hengine⟩ | ⟨l, hinputs, _⟩ | ⟨a, l, hinputs, rfl⟩ | ⟨l, rfl⟩
  · exact .inr (.inl (engineTurn_key_ne (s := s.withInputs l) hengine hkey))
  · exact .inr (.inr ⟨l, hinputs⟩)
  · obtain ⟨hidle, off, v, rfl, hlow, hhigh⟩ := access_key_ne (s := s.withInputs l) hkey
    exact .inl ⟨hidle, off, v, l, hinputs, hlow, hhigh⟩
  · obtain ⟨_, _, _, hread, _⟩ := access_key_ne (s := s.withInputs l) hkey
    cases hread

end Sys2Proof.Proofs.Key
end

section
/-! The reads of the register window that a command leaves alone (10_state.md R39). -/

namespace Sys2Proof.Proofs.Window

open Sys2Proof Sys2Proof.Machine Sys2Proof.Proofs.Inversion

/-- The registers a command writes beside STATUS (10_state.md R39), KEY left out because it reads 0. -/
def isOutput (i : Instr) (r : Reg) : Bool :=
  match i, r with
  | .hmac, .dlen | .hmac, .digest _ => true
  | .trunc, .trunc | .trunc, .offset => true
  | .format, .codeLen | .format, .code _ => true
  | .generate, .dlen | .generate, .trunc | .generate, .offset | .generate, .codeLen | .generate, .digest _
  | .generate, .code _ => true
  | .clear, .klen | .clear, .dlen | .clear, .counterLo | .clear, .counterHi | .clear, .trunc | .clear, .offset
  | .clear, .codeLen | .clear, .digest _ | .clear, .code _ => true
  | _, _ => false

theorem mayChange_status (i : Instr) : mayChange i (Reg.off .status) := .inl rfl

theorem mayChange_of_isOutput {i : Instr} {r : Reg} (h : isOutput i r = true) : mayChange i r.off := by
  cases r with
  | digest k => cases i <;> simp [isOutput, mayChange, off_digest_toNat] at h ⊢ <;> omega
  | code k => cases i <;> simp [isOutput, mayChange, off_code_toNat] at h ⊢ <;> omega
  | _ => cases i <;> simp [isOutput, mayChange, Reg.off] at h ⊢

theorem readReg_finish (s : State) (err : BitVec 4) (herr : Byte) {r : Reg} (h : r ≠ .status) :
    (s.finish err herr).readReg r = s.readReg r := by
  cases r with
  | status => exact absurd rfl h
  | _ => rfl

/-- What a command's rule stores shows in the reads of its outputs alone. -/
theorem readReg_of_runOf {i : Instr} {s u : State} {r : Reg} (h : runOf i s = .ok u) (hr : isOutput i r = false) :
    u.readReg r = s.readReg r := by
  have hframe := runOf_frame h
  cases i with
  | hmac =>
    rw [hframe]
    cases r with
    | dlen | digest => cases hr
    | _ => rfl
  | trunc =>
    rw [hframe]
    cases r with
    | trunc | offset => cases hr
    | _ => rfl
  | format =>
    rw [hframe]
    cases r with
    | codeLen | code => cases hr
    | _ => rfl
  | generate =>
    rw [hframe]
    cases r with
    | dlen | trunc | offset | codeLen | digest | code => cases hr
    | _ => rfl
  | clear =>
    rw [hframe]
    cases r with
    | klen | dlen | counterLo | counterHi | trunc | offset | codeLen | digest | code => cases hr
    | _ => rfl

/-- A command leaves alone what every register but STATUS and its outputs reads as. -/
theorem readReg_of_exec {i : Instr} {s t : State} {r : Reg} (h : exec i s = .next t) (hstatus : r ≠ .status)
    (hr : isOutput i r = false) : t.readReg r = s.readReg r := by
  rcases exec_cases h with ⟨e, _, rfl⟩ | ⟨u, hu, rfl⟩
  · exact readReg_finish s _ _ hstatus
  · exact (readReg_finish u 0 0 hstatus).trans (readReg_of_runOf hu hr)

/-- Settles O30: an unmapped offset reads 0 before and after, and a mapped one reads as its register. -/
theorem commandFrameOfTheWindow : Obligations.CommandFrameOfTheWindow := by
  intro i s t off hexec hoff
  unfold State.memRead
  cases hreg : regAt off with
  | none => rfl
  | some r =>
    obtain rfl := off_of_regAt hreg
    have hstatus : r ≠ .status := by rintro rfl; exact hoff (mayChange_status i)
    have hr : isOutput i r = false := Bool.eq_false_iff.mpr fun h => hoff (mayChange_of_isOutput h)
    exact readReg_of_exec hexec hstatus hr

end Sys2Proof.Proofs.Window
end

section
/-! The reset state (10_state.md R40). -/

namespace Sys2Proof.Proofs.Reset

open Sys2Proof Sys2Proof.Machine

theorem reset_key_getElem (j : Nat) (h : j < 128) : State.reset.key[j] = 0 := by simp [State.reset]

theorem reset_digest_getElem (j : Nat) (h : j < 64) : State.reset.digest[j] = 0 := by simp [State.reset]

theorem reset_code_getElem (j : Nat) (h : j < 19) : State.reset.code[j] = 0 := by simp [State.reset]

theorem reset_codeByte (j : Nat) : State.reset.codeByte j = 0 := by
  unfold State.codeByte
  split
  next h => exact reset_code_getElem j h
  next => rfl

theorem reset_statusWord : State.reset.statusWord = 0 := rfl

/-- Settles O7: the registers by their reset values, the buffers byte by byte. -/
theorem resetStateValues : Obligations.ResetStateValues :=
  ⟨rfl, rfl, rfl, rfl, reset_statusWord, rfl, rfl, rfl, rfl, rfl, rfl, rfl, rfl, reset_key_getElem, reset_digest_getElem,
    reset_codeByte, rfl, rfl, rfl⟩

/-- Settles O52: an idle block with ERR, HERR and CODE_LEN 0 and a CODE of zeros. -/
theorem resetMeetsInvariant : Obligations.ResetMeetsInvariant where
  busy_status := nofun
  err_known := by decide
  herr_hashFail _ := rfl
  codeLen_le := by decide
  code_digits j _ hj := absurd hj (Nat.not_lt_zero j)
  code_rest j h _ := reset_code_getElem j h

end Sys2Proof.Proofs.Reset
end

section
/-! The register map of 20_memory.md R62 in both directions, and the window by its registers (R64, R65). -/

namespace Sys2Proof.Proofs.RegisterMap

open Sys2Proof Sys2Proof.Machine Sys2Proof.Proofs.Inversion

/-! ## Offsets and registers -/

/-- The map lists every register at the offset it has. -/
@[simp] theorem regAt_off (r : Reg) : regAt r.off = some r := by
  cases r with
  | key k => exact regAt_keyWord k.val k.isLt
  | digest k => exact regAt_digestWord k.val k.isLt
  | code k => exact regAt_codeWord k.val k.isLt
  | _ => rfl

theorem regAt_eq_some_iff (off : Offset) (r : Reg) : regAt off = some r ↔ r.off = off :=
  ⟨off_of_regAt, fun h => h ▸ regAt_off r⟩

theorem fixedReg_eq_none_iff (word : Nat) : fixedReg word = none ↔ 13 ≤ word := by
  constructor
  · intro h
    by_contra hword
    interval_cases word <;> cases h
  · intro h
    obtain ⟨n, rfl⟩ := Nat.exists_eq_add_of_le' h
    rfl

/-- The unmapped offsets: the unaligned ones, and the gaps before, between and after the buffers. -/
theorem regAt_eq_none_iff (off : Offset) : regAt off = none ↔
    off.toNat % 4 ≠ 0 ∨ (0x034 ≤ off.toNat ∧ off.toNat < 0x100) ∨ (0x180 ≤ off.toNat ∧ off.toNat < 0x200) ∨
      (0x240 ≤ off.toNat ∧ off.toNat < 0x300) ∨ 0x314 ≤ off.toNat := by
  unfold regAt
  dsimp only
  split_ifs with haligned hkey hdigest hcode
  · exact iff_of_true rfl (.inl haligned)
  · exact iff_of_false nofun (by omega)
  · exact iff_of_false nofun (by omega)
  · exact iff_of_false nofun (by omega)
  · rw [fixedReg_eq_none_iff]
    omega

/-- Settles O3: the map is read backwards by `off_of_regAt` and forwards by `regAt_off`. -/
theorem registerMapIsExact : Obligations.RegisterMapIsExact := ⟨regAt_eq_some_iff, regAt_eq_none_iff⟩

theorem exists_off_key {off : Offset} (haligned : off.toNat % 4 = 0) (hlow : 0x100 ≤ off.toNat)
    (hhigh : off.toNat < 0x180) : ∃ k, off = Reg.off (.key k) :=
  ⟨⟨(off.toNat - 0x100) / 4, by omega⟩, offset_eq_ofNat (by simp only; omega)⟩

theorem exists_off_digest {off : Offset} (haligned : off.toNat % 4 = 0) (hlow : 0x200 ≤ off.toNat)
    (hhigh : off.toNat < 0x240) : ∃ k, off = Reg.off (.digest k) :=
  ⟨⟨(off.toNat - 0x200) / 4, by omega⟩, offset_eq_ofNat (by simp only; omega)⟩

/-! ## Reads and writes by register -/

theorem memRead_of_eq_off {off : Offset} {r : Reg} (h : off = r.off) (s : State) : s.memRead off = s.readReg r := by
  simp [State.memRead, h]

theorem memRead_unmapped {off : Offset} (h : regAt off = none) (s : State) : s.memRead off = 0 := by
  simp [State.memRead, h]

/-- Two states read alike at an offset when they do at the register it names. -/
theorem memRead_congr {s t : State} {off : Offset} (h : ∀ r, off = Reg.off r → t.readReg r = s.readReg r) :
    t.memRead off = s.memRead off := by
  cases hreg : regAt off with
  | none => rw [memRead_unmapped hreg, memRead_unmapped hreg]
  | some r =>
    have hoff : off = r.off := (off_of_regAt hreg).symm
    rw [memRead_of_eq_off hoff, memRead_of_eq_off hoff, h r hoff]

/-- KEY cannot be read back: no offset of its window, aligned or not, shows it (10_state.md R30). -/
theorem memRead_key_window {off : Offset} (hlow : 0x100 ≤ off.toNat) (hhigh : off.toNat < 0x180) (s : State) :
    s.memRead off = 0 := by
  by_cases haligned : off.toNat % 4 = 0
  · obtain ⟨k, hoff⟩ := exists_off_key haligned hlow hhigh
    exact memRead_of_eq_off hoff s
  · exact memRead_unmapped ((regAt_eq_none_iff off).mpr (.inl haligned)) s

theorem off_ne_status {r : Reg} (h : r ≠ .status) : r.off ≠ 0x00C := fun hoff =>
  h (Option.some.inj ((regAt_off r).symm.trans (congrArg regAt hoff)))

theorem ne_status_of_off {off : Offset} {r : Reg} (hoff : off = r.off) (h : off ≠ 0x00C) : r ≠ .status := by
  rintro rfl
  exact h hoff

theorem memWrite_off {s : State} {r : Reg} (hidle : s.phase = .idle) (hr : r ≠ .status) (v : Word) :
    s.memWrite r.off v = s.writeReg r v :=
  memWrite_idle (off_ne_status hr) hidle (regAt_off r) v

/-- A register other than STATUS read back after a write of it. -/
theorem memRead_memWrite_off {s : State} {r : Reg} (hidle : s.phase = .idle) (hr : r ≠ .status) (v : Word) :
    (s.memWrite r.off v).memRead r.off = (s.writeReg r v).readReg r := by
  rw [memWrite_off hidle hr, memRead_of_eq_off rfl]

/-- STATUS alone shows PHASE, DONE, WBUSY, ERR, HERR, and no register shows LCMD. -/
theorem readReg_withStatus (s : State) (phase : Phase) (done wbusy : Bool) (err : BitVec 4) (herr : Byte) (lcmd : Word)
    {r : Reg} (h : r ≠ .status) :
    State.readReg { s with phase := phase, done := done, wbusy := wbusy, err := err, herr := herr, lcmd := lcmd } r =
      s.readReg r := by
  cases r with
  | status => exact absurd rfl h
  | _ => rfl

end Sys2Proof.Proofs.RegisterMap
end

section
/-! Byte lanes (20_memory.md R67): byte 4k+j of a buffer is lane j of its word k, for reads and for writes. -/

namespace Sys2Proof.Proofs.Lanes

open Sys2Proof Sys2Proof.Machine Sys2Proof.Proofs.RegisterMap

theorem byteLane_toNat (v : Word) {j : Nat} (hj : j < 4) : (byteLane v j).toNat = v.toNat / 256 ^ (3 - j) % 256 := by
  have hpow : 2 ^ (24 - 8 * j) = 256 ^ (3 - j) := by interval_cases j <;> rfl
  rw [byteLane, BitVec.extractLsb'_toNat, Nat.shiftRight_eq_div_pow, hpow]

theorem wordOfLanes_byteLane (v : Word) :
    wordOfLanes (byteLane v 0) (byteLane v 1) (byteLane v 2) (byteLane v 3) = v := by
  simp only [wordOfLanes, byteLane, BitVec.extractLsb'_append_extractLsb'_eq_extractLsb']
  exact BitVec.extractLsb'_eq_self

theorem byteLane_digestWord (s : State) (k : Fin 16) {j : Nat} (hj : j < 4) :
    byteLane (s.digestWord k) j = s.digest[4 * k.val + j] := by
  rw [State.digestWord, byteLane_wordOfLanes _ _ _ _ j hj]
  interval_cases j <;> rfl

theorem byteLane_codeWord (s : State) (k : Fin 5) {j : Nat} (hj : j < 4) :
    byteLane (s.codeWord k) j = s.codeByte (4 * k.val + j) := by
  rw [State.codeWord, byteLane_wordOfLanes _ _ _ _ j hj]
  interval_cases j <;> rfl

theorem codeByte_of_lt (s : State) {j : Nat} (h : j < 19) : s.codeByte j = s.code[j] := dif_pos h

/-- A write of word k' of DIGEST is read back whole at word k' and is not seen at the others. -/
theorem digestWord_writeLanes (s : State) (k k' : Fin 16) (v : Word) :
    State.digestWord { s with digest := writeLanes s.digest k'.val v } k = if k = k' then v else s.digestWord k := by
  have hword (j : Nat) (hj : j < 4) : (4 * k.val + j) / 4 = k.val := by omega
  have hlane (j : Nat) (hj : j < 4) : (4 * k.val + j) % 4 = j := by omega
  have hword₀ : 4 * k.val / 4 = k.val := by omega
  have hlane₀ : 4 * k.val % 4 = 0 := by omega
  simp only [State.digestWord, writeLanes_getElem, hword, hlane, hword₀, hlane₀, Nat.reduceLT, Fin.val_inj]
  split_ifs
  · exact wordOfLanes_byteLane v
  · rfl

/-- Settles O17: a read of a buffer word answers the word whose lanes are its four bytes. -/
theorem bufferWordsAreBigEndian : Obligations.BufferWordsAreBigEndian := by
  intro s off k j hj
  refine ⟨fun hk hoff => ?digest, fun hk hoff => ?code, fun hoff => ?lastCodeByte⟩
  case digest =>
    rw [memRead_of_eq_off (r := .digest ⟨k, hk⟩) (offset_eq_ofNat hoff), State.readReg, ← byteLane_toNat _ hj,
      byteLane_digestWord s _ hj]
  case code =>
    rw [memRead_of_eq_off (r := .code ⟨k, by omega⟩) (offset_eq_ofNat hoff), State.readReg, ← byteLane_toNat _ hj,
      byteLane_codeWord s _ hj, codeByte_of_lt s hk]
  case lastCodeByte =>
    have hlane : byteLane (s.codeWord 4) 3 = 0 := byteLane_codeWord s 4 (by decide)
    have hvalue := byteLane_toNat (s.codeWord 4) (j := 3) (by decide)
    rw [hlane] at hvalue
    rw [memRead_of_eq_off (r := .code 4) (offset_eq_ofNat hoff), State.readReg]
    simpa using hvalue.symm

end Sys2Proof.Proofs.Lanes
end

section
/-! What the host's accesses answer and do: the form of an access (20_memory.md R63), reads (R64), and accesses while a
command is in flight (R79). -/

namespace Sys2Proof.Proofs.Accesses

open Sys2Proof Sys2Proof.Machine Sys2Proof.Proofs.Inversion Sys2Proof.Proofs.RegisterMap

/-- Settles O9: both forms of a malformed access are refused by the one check of `access`. -/
theorem malformedAccessIsBusError : Obligations.MalformedAccessIsBusError := by
  intro s width off v h
  have hform : (decide (width = 4) && decide (off.toNat % 4 = 0)) = false := by
    rw [← Bool.decide_and, decide_eq_false_iff_not, not_and_or]
    exact h
  exact ⟨access_malformed (a := .read width off) hform s, access_malformed (a := .write width off v) hform s, rfl⟩

/-- Settles O10: the access commutes with the change of the schedule. -/
theorem stepPerformsHostAccess : Obligations.StepPerformsHostAccess := by
  intro s a rest hinputs
  refine ⟨(s.withInputs rest).hostAccess a, step_bus hinputs, ?_, ?_⟩
  · rw [hostAccess_responses, access_withInputs, withInputs_responses]
  · rw [State.hostAccess, access_withInputs]
    rfl

theorem counter_low (s : State) : s.counter.extractLsb' 0 32 = s.counterLo := BitVec.extractLsb'_append_eq_right

theorem counter_high (s : State) : s.counter.extractLsb' 32 32 = s.counterHi := BitVec.extractLsb'_append_eq_left

theorem busyBit_toNat (s : State) : s.busyBit.toNat = if s.phase = .busy then 1 else 0 := by
  unfold State.busyBit
  split_ifs with h <;> simp [h]

/-- Settles O12: each clause is the read of the register the map lists at its offset. -/
theorem readAnswersRegister : Obligations.ReadAnswersRegister := by
  intro s off
  have hread {r : Reg} (h : off = r.off) : s.memRead off = s.readReg r := memRead_of_eq_off h s
  have hvalue {r : Reg} (h : off = r.off) : (s.memRead off).toNat = (s.readReg r).toNat := congrArg _ (hread h)
  refine ⟨fun h => access_malformed (by simp [BusAccess.wellFormed, h]) s, fun h => ⟨s.memRead off, access_read h s, ?_⟩⟩
  refine ⟨hread (r := .id), hread (r := .version), ?ctrl, ?status, hread (r := .cmd), hread (r := .digits), ?klen, ?dlen,
    ?counterLo, ?counterHi, ?trunc, ?offset, ?codeLen, ?key, ?digest, ?code, ?unmapped⟩
  case ctrl => exact fun h => (hvalue (r := .ctrl) h).trans (ctrlWord_toNat s)
  case status =>
    intro h
    rw [hvalue (r := .status) h, ← busyBit_toNat]
    exact statusWord_toNat s
  case klen => exact fun h => (hvalue (r := .klen) h).trans (BitVec.toNat_setWidth_of_le (by decide))
  case dlen => exact fun h => (hvalue (r := .dlen) h).trans (BitVec.toNat_setWidth_of_le (by decide))
  case counterLo => exact fun h => (hread (r := .counterLo) h).trans (counter_low s).symm
  case counterHi => exact fun h => (hread (r := .counterHi) h).trans (counter_high s).symm
  case trunc => exact fun h => (hvalue (r := .trunc) h).trans (BitVec.toNat_setWidth_of_le (by decide))
  case offset => exact fun h => (hvalue (r := .offset) h).trans (BitVec.toNat_setWidth_of_le (by decide))
  case codeLen => exact fun h => (hvalue (r := .codeLen) h).trans (BitVec.toNat_setWidth_of_le (by decide))
  case key => exact fun hlow hhigh => memRead_key_window hlow hhigh s
  case digest => exact fun k hk hoff => hread (r := .digest ⟨k, hk⟩) (offset_eq_ofNat hoff)
  case code => exact fun k hk hoff => hread (r := .code ⟨k, hk⟩) (offset_eq_ofNat hoff)
  case unmapped => exact fun hgap => memRead_unmapped ((regAt_eq_none_iff off).mpr (.inr hgap)) s

/-- Changes of STATUS and LCMD show at STATUS's offset alone. -/
theorem memRead_withStatus (s : State) (phase : Phase) (done wbusy : Bool) (err : BitVec 4) (herr : Byte) (lcmd : Word)
    {off : Offset} (h : off ≠ 0x00C) :
    State.memRead { s with phase := phase, done := done, wbusy := wbusy, err := err, herr := herr, lcmd := lcmd } off =
      s.memRead off :=
  memRead_congr fun _ hoff =>
    readReg_withStatus s phase done wbusy err herr lcmd (ne_status_of_off hoff h)

/-- Settles O20: an access to a busy block touches DONE and WBUSY alone. -/
theorem outputsReadOldWhileBusy : Obligations.OutputsReadOldWhileBusy := by
  intro s a off hbusy hoff
  obtain ⟨done, wbusy, haccess⟩ := access_busy s a hbusy
  rw [haccess]
  exact ⟨memRead_withStatus s s.phase done wbusy s.err s.herr s.lcmd hoff, hbusy⟩

end Sys2Proof.Proofs.Accesses
end

section
/-! What the host's writes do (20_memory.md R65, R66): to each register, to no other one, and what is read back. -/

namespace Sys2Proof.Proofs.Writes

open Sys2Proof Sys2Proof.Machine Sys2Proof.Proofs.Inversion Sys2Proof.Proofs.RegisterMap Sys2Proof.Proofs.Lanes
  Sys2Proof.Proofs.Accesses Sys2Proof.Proofs.Key

/-! ## Each register -/

/-- Settles O13: each clause is the write of the register the map lists at its offset. -/
theorem idleWriteSetsRegister : Obligations.IdleWriteSetsRegister := by
  intro s v hidle
  have hwrite {r : Reg} (hr : r ≠ .status) : s.memWrite r.off v = s.writeReg r v := memWrite_off hidle hr v
  refine ⟨hwrite (r := .ctrl) nofun, hwrite (r := .cmd) nofun, hwrite (r := .digits) nofun, ?klen, ?dlen,
    hwrite (r := .counterLo) nofun, hwrite (r := .counterHi) nofun, ?trunc, ?key, ?digest⟩
  case klen => rw [← BitVec.setWidth_eq_extractLsb' (by decide)]; exact hwrite (r := .klen) nofun
  case dlen => rw [← BitVec.setWidth_eq_extractLsb' (by decide)]; exact hwrite (r := .dlen) nofun
  case trunc => rw [← BitVec.setWidth_eq_extractLsb' (by decide)]; exact hwrite (r := .trunc) nofun
  case key =>
    intro off k hk hoff
    have hkey : s.memWrite off v = { s with key := writeLanes s.key k v } :=
      offset_eq_ofNat hoff ▸ hwrite (r := .key ⟨k, hk⟩) nofun
    rw [hkey]
    exact ⟨rfl, writeLanes_getElem s.key k v⟩
  case digest =>
    intro off k hk hoff
    have hdigest : s.memWrite off v = { s with digest := writeLanes s.digest k v } :=
      offset_eq_ofNat hoff ▸ hwrite (r := .digest ⟨k, hk⟩) nofun
    rw [hdigest]
    exact ⟨rfl, writeLanes_getElem s.digest k v⟩

/-- Settles O14: such an offset names no register, or one whose write stores nothing. -/
theorem idleWriteToReadOnlyIsIgnored : Obligations.IdleWriteToReadOnlyIsIgnored := by
  intro s off v hidle hoff
  cases hreg : regAt off with
  | none => exact memWrite_unmapped hidle hreg v
  | some r =>
    obtain rfl := off_of_regAt hreg
    have hstatus : r ≠ .status := by rintro rfl; exact absurd hoff (by decide)
    rw [memWrite_off hidle hstatus]
    cases r with
    | id | version | status | offset | codeLen | code => rfl
    | key k =>
      have hkey := off_key_toNat k
      bv_omega
    | digest k =>
      have hdigest := off_digest_toNat k
      bv_omega
    | ctrl | cmd | digits | klen | dlen | counterLo | counterHi | trunc => exact absurd hoff (by decide)

theorem and_not_eq_ite (flag bit : Bool) : (flag && !bit) = if bit then false else flag := by
  cases bit <;> simp

/-- Settles O18: `writeStatus` is the write of STATUS in either PHASE. -/
theorem statusWriteClearsOnlyWrittenOnes : Obligations.StatusWriteClearsOnlyWrittenOnes := by
  intro s v
  refine ⟨s.writeStatus v, access_write (by decide) s v, ?_, ?_, rfl⟩
  · rw [writeStatus_done, and_not_eq_ite]
  · rw [writeStatus_wbusy, and_not_eq_ite]

/-! ## Read back -/

/-- A register of n bits reads back the n low bits. -/
theorem setWidth_setWidth_eq_and (v : Word) {n : Nat} (hn : n ≤ 32) :
    (v.setWidth n).setWidth 32 = v &&& BitVec.ofNat 32 (2 ^ n - 1) := by
  have hpow : 2 ^ n ≤ 2 ^ 32 := Nat.pow_le_pow_right (by decide) hn
  have hmask : (2 ^ n - 1) % 2 ^ 32 = 2 ^ n - 1 := Nat.mod_eq_of_lt (by omega)
  apply BitVec.eq_of_toNat_eq
  rw [BitVec.toNat_setWidth_of_le hn, BitVec.toNat_setWidth, BitVec.toNat_and, BitVec.toNat_ofNat, hmask,
    Nat.and_two_pow_sub_one_eq_mod]

/-- CTRL stores ALG and IE: bits 3:0 and 8 (10_state.md R22). -/
theorem ctrlWord_writeCtrl (s : State) (v : Word) : (s.writeCtrl v).ctrlWord = v &&& 0x0000010F := by
  rw [ctrlWord_eq_append, writeCtrl_ie, writeCtrl_alg]
  apply BitVec.eq_of_getLsbD_eq
  intro i hi
  simp only [BitVec.getLsbD_append]
  interval_cases i <;> simp

theorem readReg_writeReg_digest (s : State) (k : Fin 16) (v : Word) :
    (s.writeReg (.digest k) v).readReg (.digest k) = v :=
  (digestWord_writeLanes s k k v).trans (if_pos rfl)

/-- Settles O15, register by register. -/
theorem readBackKeepsStoredBits : Obligations.ReadBackKeepsStoredBits := by
  intro s v hidle
  have hback {r : Reg} (hr : r ≠ .status) : (s.memWrite r.off v).memRead r.off = (s.writeReg r v).readReg r :=
    memRead_memWrite_off hidle hr v
  refine ⟨?ctrl, hback (r := .digits) nofun, ?klen, ?dlen, hback (r := .counterLo) nofun, hback (r := .counterHi) nofun,
    ?trunc, fun off hlow hhigh => memRead_key_window hlow hhigh _, ?digest⟩
  case ctrl => exact (hback (r := .ctrl) nofun).trans (ctrlWord_writeCtrl s v)
  case klen => exact (hback (r := .klen) nofun).trans (setWidth_setWidth_eq_and v (n := 8) (by decide))
  case dlen => exact (hback (r := .dlen) nofun).trans (setWidth_setWidth_eq_and v (n := 7) (by decide))
  case trunc => exact (hback (r := .trunc) nofun).trans (setWidth_setWidth_eq_and v (n := 31) (by decide))
  case digest =>
    intro off haligned hlow hhigh
    obtain ⟨k, rfl⟩ := exists_off_digest haligned hlow hhigh
    exact (hback (r := .digest k) nofun).trans (readReg_writeReg_digest s k v)

/-! ## No aliasing -/

theorem readReg_withDigest (s : State) (digest : Vector Byte 64) {r : Reg} (h : ∀ k, r ≠ .digest k) :
    State.readReg { s with digest := digest } r = s.readReg r := by
  cases r with
  | digest k => exact absurd rfl (h k)
  | _ => rfl

/-- A write of a register shows in its own read and, for CMD, in STATUS alone. -/
theorem readReg_writeReg_of_ne (s : State) {r r' : Reg} (v : Word) (hne : r ≠ r') (hstatus : r' ≠ .status) :
    (s.writeReg r v).readReg r' = s.readReg r' := by
  cases r with
  | id | version | status | offset | codeLen | code => rfl
  | cmd => exact readReg_withStatus s .busy false s.wbusy 0 0 v hstatus
  | key k => exact readReg_withKey s _ r'
  | digest k =>
    cases r' with
    | digest k' =>
      have hk : k' ≠ k := fun h => hne (congrArg Reg.digest h.symm)
      exact (digestWord_writeLanes s k' k v).trans (if_neg hk)
    | _ => exact readReg_withDigest s _ nofun
  | ctrl | digits | klen | dlen | counterLo | counterHi | trunc =>
    cases r' <;> try contradiction
    all_goals rfl

/-- Settles O16, by the four things a write can do. -/
theorem writeLeavesOtherOffsets : Obligations.WriteLeavesOtherOffsets := by
  intro s off₁ off₂ v hne hstatus
  rcases memWrite_cases s off₁ v with ⟨_, e⟩ | ⟨_, _, e⟩ | ⟨_, _, r, hr, e⟩ | ⟨_, _, _, e⟩ <;> rw [e]
  · exact memRead_withStatus s s.phase _ _ s.err s.herr s.lcmd hstatus
  · exact memRead_withStatus s s.phase s.done true s.err s.herr s.lcmd hstatus
  · refine memRead_congr fun r' hr' => readReg_writeReg_of_ne s v ?_ (ne_status_of_off hr' hstatus)
    rintro rfl
    exact hne ((off_of_regAt hr).symm.trans hr'.symm)

end Sys2Proof.Proofs.Writes
end

section
/-! The decoder and the encoder against each other over every word (30_encoding.md R90, R92, R94). -/

namespace Sys2Proof.Proofs.DecodeEncode

open Sys2Proof Sys2Proof.Machine Sys2Proof.Proofs.Inversion

theorem encoding_statement (i : Instr) : Laws.Encoding.Statement i := by
  cases i
  exacts [Laws.Encoding.hmac, Laws.Encoding.trunc, Laws.Encoding.format, Laws.Encoding.generate, Laws.Encoding.clear]

/-- The word of a command decodes to it. -/
theorem decode_encode (i : Instr) : decode (encode i) = .ok i := by
  obtain ⟨hrsvd, hop, hmap, _⟩ := encoding_statement i
  simp [decode, hrsvd, hop, hmap]

theorem decode_eq_ok_iff (w : Word) (i : Instr) : decode w = .ok i ↔ w = encode i :=
  ⟨eq_encode_of_decode, fun h => h ▸ decode_encode i⟩

theorem encode_toNat (i : Instr) : (encode i).toNat = (opcodeOf i).toNat := by
  rw [encode, toNat_append_eq]
  simp

theorem opcodeOf_bounds (i : Instr) : 1 ≤ (opcodeOf i).toNat ∧ (opcodeOf i).toNat ≤ 5 := by
  cases i <;> decide

theorem exists_opcodeOf_toNat_eq {n : Nat} (hlow : 1 ≤ n) (hhigh : n ≤ 5) : ∃ i, (opcodeOf i).toNat = n := by
  interval_cases n
  exacts [⟨.hmac, rfl⟩, ⟨.trunc, rfl⟩, ⟨.format, rfl⟩, ⟨.generate, rfl⟩, ⟨.clear, rfl⟩]

/-- The command words are the numbers 1 to 5. -/
theorem exists_eq_encode_iff (w : Word) : (∃ i, w = encode i) ↔ 1 ≤ w.toNat ∧ w.toNat ≤ 5 := by
  constructor
  · rintro ⟨i, rfl⟩
    rw [encode_toNat]
    exact opcodeOf_bounds i
  · rintro ⟨hlow, hhigh⟩
    obtain ⟨i, hi⟩ := exists_opcodeOf_toNat_eq hlow hhigh
    exact ⟨i, BitVec.eq_of_toNat_eq (hi.symm.trans (encode_toNat i).symm)⟩

/-- A word is refused exactly when it is no command's word. -/
theorem exists_decode_eq_error_iff (w : Word) : (∃ e, decode w = .error e) ↔ ¬∃ i, w = encode i := by
  simp only [← decode_eq_ok_iff]
  cases decode w with
  | ok i => simp
  | error e => simp

theorem decodeTableWord_toNat {w : Word} {i : Instr} (h : decode w = .ok i) : decodeTableWord 32 w.toNat = some i := by
  have hword : BitVec.ofNat 32 (w.toNat % 2 ^ 32) = w := by
    rw [Nat.mod_eq_of_lt w.isLt, BitVec.ofNat_toNat, BitVec.setWidth_eq]
  rw [decodeTableWord, if_pos (Nat.le_refl 32), hword, h]

/-- Settles O2: a word that decodes is rebuilt from its two fields, and the words that do not are the ones outside 1 to 5. -/
theorem decodeAndEncodeAgree : Obligations.DecodeAndEncodeAgree := by
  refine ⟨decode_eq_ok_iff, fun w => ?_, fun i => decodeTableWord_toNat (decode_encode i)⟩
  rw [exists_decode_eq_error_iff, exists_eq_encode_iff]
  omega

/-- Settles O1: the command words by `decode_encode`, the refused words by evaluation. -/
theorem commandWordsDecode : Obligations.CommandWordsDecode :=
  ⟨decode_encode .hmac, decode_encode .trunc, decode_encode .format, decode_encode .generate, decode_encode .clear, rfl,
    rfl, rfl, rfl, rfl, rfl, rfl, rfl⟩

end Sys2Proof.Proofs.DecodeEncode
end

section
/-! The completion of the latched command as a function of the state (60_exceptions.md R205), and the fields it does not
look at: those a host access can change while a command is in flight, and the model's own two. -/

namespace Sys2Proof.Proofs.Completion

open Sys2Proof Sys2Proof.Machine

/-- What the latched word comes to: `Run` of its command, or ILLEGAL_CMD (60_exceptions.md R202, R205). -/
def runLatched (s : State) : Except CmdError State :=
  match decode s.lcmd with
  | .ok i => runOf i s
  | .error _ => .error .illegalCmd

/-- The state the completion of the latched command leaves. -/
def completed (s : State) : State := s.complete (runLatched s)

theorem completion_eq (s : State) : completion s = .next (completed s) := by
  unfold completion completed runLatched
  cases decode s.lcmd with
  | ok i => exact exec_eq i s
  | error e => rfl

@[simp] theorem complete_phase (s : State) (outcome : Except CmdError State) : (s.complete outcome).phase = .idle := by
  cases outcome <;> rfl

@[simp] theorem complete_done (s : State) (outcome : Except CmdError State) : (s.complete outcome).done = true := by
  cases outcome <;> rfl

@[simp] theorem completed_phase (s : State) : (completed s).phase = .idle := complete_phase s _

@[simp] theorem completed_done (s : State) : (completed s).done = true := complete_done s _

/-! ## What a completion does not look at -/

/-- The same state with other values in DONE, WBUSY, the schedule and the record of answers. -/
def withHostSide (done wbusy : Bool) (inputs : List Input) (responses : List Response) (s : State) : State :=
  { s with done := done, wbusy := wbusy, inputs := inputs, responses := responses }

variable (s : State) (done wbusy : Bool) (inputs : List Input) (responses : List Response)

theorem runHmac_withHostSide (p : Primitive) :
    runHmac p (withHostSide done wbusy inputs responses s) =
      (runHmac p s).map (withHostSide done wbusy inputs responses) := by
  have hinputs : hmacInputs p (withHostSide done wbusy inputs responses s) = hmacInputs p s := rfl
  have hcall : callPrimitive p (withHostSide done wbusy inputs responses s) = callPrimitive p s := rfl
  unfold runHmac
  rw [hinputs, hcall]
  cases hmacInputs p s with
  | error e => rfl
  | ok desc => cases callPrimitive p s <;> rfl

theorem runTrunc_withHostSide :
    runTrunc (withHostSide done wbusy inputs responses s) =
      (runTrunc s).map (withHostSide done wbusy inputs responses) := by
  have hcheck : checkDigestLen (withHostSide done wbusy inputs responses s) = checkDigestLen s := rfl
  have hbytes : (withHostSide done wbusy inputs responses s).digestBytes = s.digestBytes := rfl
  have hlen : (withHostSide done wbusy inputs responses s).dlen = s.dlen := rfl
  unfold runTrunc
  rw [hcheck, hbytes, hlen]
  cases checkDigestLen s with
  | error e => rfl
  | ok _ =>
    dsimp only
    split_ifs <;> rfl

theorem runFormat_withHostSide :
    runFormat (withHostSide done wbusy inputs responses s) =
      (runFormat s).map (withHostSide done wbusy inputs responses) := by
  have hdigits : digitsOperand (withHostSide done wbusy inputs responses s) = digitsOperand s := rfl
  unfold runFormat
  rw [hdigits]
  cases digitsOperand s <;> rfl

theorem runGenerate_withHostSide (p : Primitive) :
    runGenerate p (withHostSide done wbusy inputs responses s) =
      (runGenerate p s).map (withHostSide done wbusy inputs responses) := by
  have hinputs : generateInputs p (withHostSide done wbusy inputs responses s) = generateInputs p s := rfl
  have hcall : callPrimitive p (withHostSide done wbusy inputs responses s) = callPrimitive p s := rfl
  unfold runGenerate
  rw [hinputs, hcall]
  cases generateInputs p s with
  | error e => rfl
  | ok operands => cases callPrimitive p s <;> rfl

theorem runOf_withHostSide (i : Instr) :
    runOf i (withHostSide done wbusy inputs responses s) =
      (runOf i s).map (withHostSide done wbusy inputs responses) := by
  cases i with
  | hmac => exact runHmac_withHostSide s done wbusy inputs responses platform
  | trunc => exact runTrunc_withHostSide s done wbusy inputs responses
  | format => exact runFormat_withHostSide s done wbusy inputs responses
  | generate => exact runGenerate_withHostSide s done wbusy inputs responses platform
  | clear => rfl

theorem runLatched_withHostSide :
    runLatched (withHostSide done wbusy inputs responses s) =
      (runLatched s).map (withHostSide done wbusy inputs responses) := by
  have hlcmd : (withHostSide done wbusy inputs responses s).lcmd = s.lcmd := rfl
  unfold runLatched
  rw [hlcmd]
  cases decode s.lcmd with
  | ok i => exact runOf_withHostSide s done wbusy inputs responses i
  | error e => rfl

/-- A completion sets DONE itself and carries WBUSY, the schedule and the record of answers through. -/
theorem completed_withHostSide :
    completed (withHostSide done wbusy inputs responses s) =
      withHostSide true wbusy inputs responses (completed s) := by
  unfold completed
  rw [runLatched_withHostSide]
  cases runLatched s <;> rfl

theorem completed_eq_withHostSide : completed s = withHostSide true s.wbusy s.inputs s.responses (completed s) :=
  completed_withHostSide s s.done s.wbusy s.inputs s.responses

@[simp] theorem completed_inputs : (completed s).inputs = s.inputs := by
  rw [completed_eq_withHostSide]
  rfl

@[simp] theorem completed_responses : (completed s).responses = s.responses := by
  rw [completed_eq_withHostSide]
  rfl

theorem completed_withModelFields :
    completed { s with inputs := inputs, responses := responses } =
      { completed s with inputs := inputs, responses := responses } := by
  calc
    _ = withHostSide true s.wbusy inputs responses (completed s) :=
      completed_withHostSide s s.done s.wbusy inputs responses
    _ = _ := by rw [completed_eq_withHostSide s]; rfl

theorem completed_withInputs : completed (s.withInputs inputs) = (completed s).withInputs inputs := by
  calc
    _ = { completed s with inputs := inputs, responses := s.responses } :=
      completed_withModelFields s inputs s.responses
    _ = _ := by rw [← completed_responses s]; rfl

end Sys2Proof.Proofs.Completion
end

section
/-! The `poll` loop of 30_encoding.md R102 from an accepted command to the STATUS value it ends with. -/

namespace Sys2Proof.Proofs.Poll

open Sys2Proof Sys2Proof.Machine Sys2Proof.Proofs.Completion

/-! ## STATUS by its fields (10_state.md R23) -/

theorem statusWord_bit_busy (s : State) : s.statusWord.getLsbD 0 = s.busyBit := by
  rw [statusWord_eq_append]
  simp only [BitVec.getLsbD_append]
  simp

theorem statusWord_bit_done (s : State) : s.statusWord.getLsbD 1 = s.done := by
  rw [statusWord_eq_append]
  simp only [BitVec.getLsbD_append]
  simp

theorem statusWord_flags_lt (s : State) : 4 * s.wbusy.toNat + 2 * s.done.toNat + s.busyBit.toNat < 8 := by
  have hwbusy := s.wbusy.toNat_le
  have hdone := s.done.toNat_le
  have hbusy := s.busyBit.toNat_le
  omega

theorem statusWord_field_err (s : State) : s.statusWord.extractLsb' 8 4 = s.err := by
  have hflags := statusWord_flags_lt s
  apply BitVec.eq_of_toNat_eq
  rw [BitVec.extractLsb'_toNat, Nat.shiftRight_eq_div_pow, statusWord_toNat]
  omega

theorem statusWord_field_herr (s : State) : s.statusWord.extractLsb' 16 8 = s.herr := by
  have hflags := statusWord_flags_lt s
  apply BitVec.eq_of_toNat_eq
  rw [BitVec.extractLsb'_toNat, Nat.shiftRight_eq_div_pow, statusWord_toNat]
  omega

/-! ## The turns of the loop -/

theorem hostAccess_read_status (s : State) :
    s.hostAccess (.read 4 (Reg.off .status)) = { s with responses := .data s.statusWord :: s.responses } := by
  rw [State.hostAccess, access_read rfl]
  rfl

variable {s : State} {rest : List Input}

/-- A read that sees BUSY = 1 leaves one read less to come. -/
theorem step_poll_succ {n : Nat} (hbusy : s.phase = .busy) (hinputs : s.inputs = .poll (n + 1) :: rest) :
    step s = .next { s with inputs := .poll n :: rest, responses := .data s.statusWord :: s.responses } := by
  rw [step_poll hinputs, pollTurn, if_pos hbusy]
  exact congrArg _ (hostAccess_read_status (s.withInputs (.poll n :: rest)))

/-- When no more reads may see BUSY = 1 the engine takes its turn, and the loop goes on. -/
theorem step_poll_zero (hbusy : s.phase = .busy) (hinputs : s.inputs = .poll 0 :: rest) :
    step s = .next (completed s) := by
  rw [step_poll hinputs, pollTurn, if_pos hbusy, withInputs_self hinputs]
  exact completion_eq s

/-- A read that sees BUSY = 0 ends the loop. -/
theorem step_poll_idle {n : Nat} (hidle : s.phase = .idle) (hinputs : s.inputs = .poll n :: rest) :
    step s = .next { s with inputs := rest, responses := .data s.statusWord :: s.responses } := by
  rw [step_poll hinputs, pollTurn.eq_def, if_neg (by simp [hidle])]
  exact congrArg _ (hostAccess_read_status (s.withInputs rest))

/-- `poll` on a busy block ends, after its reads and the completion, with a read of the completed STATUS. -/
theorem run_poll {reads : Nat} (hbusy : s.phase = .busy) (hinputs : s.inputs = .poll reads :: rest) :
    ∃ earlier, Host.Core.run Sys2Proof.core (reads + 2) s =
      .next { completed s with inputs := rest, responses := .data (completed s).statusWord :: earlier } := by
  induction reads generalizing s with
  | zero =>
    have hlast := step_poll_idle (completed_phase s) ((completed_inputs s).trans hinputs)
    exact ⟨_, by rw [run_succ 1 (step_poll_zero hbusy hinputs), run_succ 0 hlast, run_zero]⟩
  | succ n ih =>
    obtain ⟨earlier, hrun⟩ :=
      ih (s := { s with inputs := .poll n :: rest, responses := .data s.statusWord :: s.responses }) hbusy rfl
    rw [completed_withModelFields] at hrun
    exact ⟨earlier, (run_succ (n + 2) (step_poll_succ hbusy hinputs)).trans hrun⟩

theorem step_engine_busy (hbusy : s.phase = .busy) (rest : List Input) :
    step { s with inputs := .engine :: rest } = .next { completed s with inputs := rest } := by
  have hturn : step { s with inputs := .engine :: rest } = completion (s.withInputs rest) := engineTurn_busy hbusy
  rw [hturn, completion_eq, completed_withInputs]
  rfl

/-- Settles O55: the last read of the loop sees the STATUS of the completed command. -/
theorem pollEndsWithCompletedStatus : Obligations.PollEndsWithCompletedStatus := by
  intro s reads rest hbusy hinputs
  obtain ⟨earlier, hrun⟩ := run_poll hbusy hinputs
  refine ⟨_, _, step_engine_busy hbusy rest, hrun, ⟨_, earlier, rfl, ?_, ?_, ?_, ?_⟩, rfl⟩
  · rw [statusWord_bit_busy, State.busyBit, completed_phase]
    rfl
  · rw [statusWord_bit_done, completed_done]
  · exact statusWord_field_err (completed s)
  · exact statusWord_field_herr (completed s)

end Sys2Proof.Proofs.Poll
end

section
/-! What the loading lines of the host's assembly leave in an idle block (30_encoding.md R103, R104). -/

namespace Sys2Proof.Proofs.Loads

open Sys2Proof Sys2Proof.Machine Sys2Proof.Proofs.RegisterMap

/-! ## One write of a register -/

theorem off_toNat_mod_four (r : Reg) : r.off.toNat % 4 = 0 := by
  by_contra h
  have hnone : regAt r.off = none := (regAt_eq_none_iff r.off).mpr (.inl h)
  rw [regAt_off] at hnone
  cases hnone

theorem access_wrAt_off {s : State} {r : Reg} (hidle : s.phase = .idle) (hr : r ≠ .status) (v : Word) :
    (s.access (wrAt r.off v)).1 = s.writeReg r v := by
  rw [wrAt, access_write (off_toNat_mod_four r), memWrite_off hidle hr]

/-! ## The words of a buffer -/

theorem byteLane_packedWord (bytes : List Byte) (k : Nat) {j : Nat} (hj : j < 4) :
    byteLane (packedWord bytes k) j = bytes.getD (4 * k + j) 0 := by
  rw [packedWord, byteLane_wordOfLanes _ _ _ _ j hj]
  interval_cases j <;> rfl

/-- A buffer whose first words hold the bytes, with 0x00 past their end. -/
def loadWords {n : Nat} (buf : Vector Byte n) (bytes : List Byte) (words : Nat) : Vector Byte n :=
  Vector.ofFn fun i => if i.val < words * 4 then bytes.getD i.val 0 else buf[i.val]

theorem loadWords_getElem {n : Nat} (buf : Vector Byte n) (bytes : List Byte) (words j : Nat) (h : j < n) :
    (loadWords buf bytes words)[j] = if j < words * 4 then bytes.getD j 0 else buf[j] := by
  simp [loadWords]

@[simp] theorem loadWords_zero {n : Nat} (buf : Vector Byte n) (bytes : List Byte) : loadWords buf bytes 0 = buf := by
  refine Vector.ext fun j hj => ?_
  simp [loadWords_getElem]

/-- The write of the next word loads one word more. -/
theorem writeLanes_loadWords {n : Nat} (buf : Vector Byte n) (bytes : List Byte) (k : Nat) :
    writeLanes (loadWords buf bytes k) k (packedWord bytes k) = loadWords buf bytes (k + 1) := by
  refine Vector.ext fun j hj => ?_
  rw [writeLanes_getElem, loadWords_getElem, loadWords_getElem]
  by_cases hword : j / 4 = k
  · have hj₄ : 4 * k + j % 4 = j := by omega
    rw [if_pos hword, if_pos (by omega), byteLane_packedWord bytes k (Nat.mod_lt j (by decide)), hj₄]
  · have hlt : j < k * 4 ↔ j < (k + 1) * 4 := by omega
    simp only [if_neg hword, hlt]

/-- The writes of a buffer load its words, where `put` gives the idle state with a buffer in it and `reg k` is the register
of the buffer's word k. -/
theorem foldl_packedWrites {n base words : Nat} {put : Vector Byte n → State} {reg : Fin words → Reg}
    (hidle : ∀ buf, (put buf).phase = .idle) (hstatus : ∀ k, reg k ≠ .status)
    (hoff : ∀ k, (reg k).off = BitVec.ofNat 12 (base + 4 * k.val))
    (hput : ∀ buf k v, (put buf).writeReg (reg k) v = put (writeLanes buf k.val v))
    {bytes : List Byte} (hlen : (bytes.length + 3) / 4 ≤ words) (buf : Vector Byte n) :
    (packedWrites base bytes).foldl (fun u a => (u.access a).1) (put buf) =
      put (loadWords buf bytes ((bytes.length + 3) / 4)) := by
  have hword (buf : Vector Byte n) {k : Nat} (hk : k < words) (v : Word) :
      ((put buf).access (wrAt (BitVec.ofNat 12 (base + 4 * k)) v)).1 = put (writeLanes buf k v) := by
    rw [← hput buf ⟨k, hk⟩, ← hoff ⟨k, hk⟩]
    exact access_wrAt_off (hidle buf) (hstatus ⟨k, hk⟩) v
  unfold packedWrites
  generalize (bytes.length + 3) / 4 = m at hlen ⊢
  induction m with
  | zero => rw [loadWords_zero]; rfl
  | succ m ih =>
    rw [List.range_succ, List.map_append, List.foldl_append, ih (by omega)]
    exact (hword _ hlen _).trans (congrArg put (writeLanes_loadWords buf bytes m))

/-! ## The lines -/

theorem foldl_ldkeyAccesses {s : State} {bytes : List Byte} (hidle : s.phase = .idle) (hlen : bytes.length ≤ 128) :
    (ldkeyAccesses bytes).foldl (fun u a => (u.access a).1) s =
      { s with klen := (BitVec.ofNat 32 bytes.length).setWidth 8,
               key := loadWords s.key bytes ((bytes.length + 3) / 4) } := by
  rw [ldkeyAccesses, List.foldl_cons, access_wrAt_off hidle (r := .klen) nofun]
  exact foldl_packedWrites (reg := .key)
    (put := fun key => { s with klen := (BitVec.ofNat 32 bytes.length).setWidth 8, key := key })
    (fun _ => hidle) nofun (fun _ => rfl) (fun _ _ _ => rfl) (by omega) s.key

theorem foldl_lddgstAccesses {s : State} {bytes : List Byte} (hidle : s.phase = .idle) (hlen : bytes.length ≤ 64) :
    (lddgstAccesses bytes).foldl (fun u a => (u.access a).1) s =
      { s with dlen := (BitVec.ofNat 32 bytes.length).setWidth 7,
               digest := loadWords s.digest bytes ((bytes.length + 3) / 4) } := by
  rw [lddgstAccesses, List.foldl_cons, access_wrAt_off hidle (r := .dlen) nofun]
  exact foldl_packedWrites (reg := .digest)
    (put := fun digest => { s with dlen := (BitVec.ofNat 32 bytes.length).setWidth 7, digest := digest })
    (fun _ => hidle) nofun (fun _ => rfl) (fun _ _ _ => rfl) (by omega) s.digest

theorem foldl_ldctrAccesses {s : State} (hidle : s.phase = .idle) (n : BitVec 64) :
    (ldctrAccesses n).foldl (fun u a => (u.access a).1) s =
      { s with counterHi := n.extractLsb' 32 32, counterLo := n.extractLsb' 0 32 } := by
  rw [ldctrAccesses, List.foldl_cons, List.foldl_cons, List.foldl_nil, access_wrAt_off hidle (r := .counterHi) nofun]
  have hidle' : (s.writeReg .counterHi (n.extractLsb' 32 32)).phase = .idle := hidle
  exact access_wrAt_off (r := .counterLo) hidle' nofun _

theorem toNat_setWidth_ofNat {w len : Nat} (hw : w ≤ 32) (hlen : len < 2 ^ w) :
    ((BitVec.ofNat 32 len).setWidth w).toNat = len := by
  rw [BitVec.setWidth_ofNat_of_le hw, BitVec.toNat_ofNat, Nat.mod_eq_of_lt hlen]

theorem extractLsb'_append_halves (n : BitVec 64) : n.extractLsb' 32 32 ++ n.extractLsb' 0 32 = n :=
  (BitVec.extractLsb'_append_extractLsb'_eq_extractLsb' rfl).trans BitVec.extractLsb'_eq_self

/-- Settles O57: KEY takes the bytes word by word. -/
theorem ldkeyLoadsKey : Obligations.LdkeyLoadsKey := by
  intro s bytes hidle _ hlen
  exact ⟨_, foldl_ldkeyAccesses hidle hlen, toNat_setWidth_ofNat (by decide) (by omega),
    loadWords_getElem s.key bytes _, rfl⟩

/-- Settles O58: DIGEST takes the bytes word by word, and COUNTER its two halves. -/
theorem lddgstAndLdctrLoad : Obligations.LddgstAndLdctrLoad := by
  refine fun s hidle => ⟨fun bytes _ hlen => ?_, fun n => ?_⟩
  · exact ⟨_, foldl_lddgstAccesses hidle hlen, toNat_setWidth_ofNat (by decide) (by omega),
      loadWords_getElem s.digest bytes _, rfl⟩
  · exact ⟨_, foldl_ldctrAccesses hidle n, extractLsb'_append_halves n, rfl⟩

end Sys2Proof.Proofs.Loads
end

section
/-! The message port: the eight bytes of COUNTER, most significant first (40_message_port.md R110, R112). -/

namespace Sys2Proof.Proofs.MessagePort

open Sys2Proof Sys2Proof.Machine

/-! ## One byte of the message -/

theorem be8_getElem (c : BitVec 64) (i : Nat) (hi : i < 8) : (be8 c)[i] = c.extractLsb' (56 - 8 * i) 8 := by
  rw [be8, Vector.getElem_ofFn]

/-- Byte i is the base 256 digit of the counter with weight 7 - i. -/
theorem be8_getElem_toNat (c : BitVec 64) (i : Nat) (hi : i < 8) :
    (be8 c)[i].toNat = c.toNat / 256 ^ (7 - i) % 256 := by
  have hweight : 2 ^ (56 - 8 * i) = 256 ^ (7 - i) := by
    rw [show 56 - 8 * i = 8 * (7 - i) by omega, Nat.pow_mul]
  rw [be8_getElem, BitVec.extractLsb'_toNat, Nat.shiftRight_eq_div_pow, hweight]

theorem counter_toNat (s : State) : s.counter.toNat = s.counterHi.toNat * 2 ^ 32 + s.counterLo.toNat := by
  rw [State.counter, BitVec.toNat_append, ← Nat.shiftLeft_add_eq_or_of_lt s.counterLo.isLt, Nat.shiftLeft_eq]

/-! ## The message read back -/

@[simp] theorem beNat_nil : beNat [] = 0 := rfl

theorem beNat_concat (bytes : List Byte) (b : Byte) : beNat (bytes ++ [b]) = 256 * beNat bytes + b.toNat := by
  simp [beNat]

/-- The first k bytes read big-endian are the upper 8 * k bits of the counter: each further byte appends the next digit. -/
theorem beNat_take_be8 (c : BitVec 64) (k : Nat) (hk : k ≤ 8) :
    beNat ((be8 c).toList.take k) = c.toNat / 256 ^ (8 - k) := by
  induction k with
  | zero => simpa using (Nat.div_eq_of_lt c.isLt).symm
  | succ k ih =>
    have hlen : k < (be8 c).toList.length := by rw [Vector.length_toList]; omega
    have hdigit : (be8 c).toList[k].toNat = c.toNat / 256 ^ (7 - k) % 256 := by
      rw [Vector.getElem_toList, be8_getElem_toNat]
    have hupper : c.toNat / 256 ^ (8 - k) = c.toNat / 256 ^ (7 - k) / 256 := by
      rw [Nat.div_div_eq_div_mul, ← Nat.pow_succ, show 8 - k = 7 - k + 1 by omega]
    rw [List.take_succ_eq_append_getElem hlen, beNat_concat, ih (by omega), hdigit, hupper, Nat.div_add_mod,
      show 8 - (k + 1) = 7 - k by omega]

theorem beNat_be8 (c : BitVec 64) : beNat (be8 c).toList = c.toNat := by
  have htake : (be8 c).toList.take 8 = (be8 c).toList := List.take_of_length_le (by rw [Vector.length_toList])
  rw [← htake, beNat_take_be8 c 8 le_rfl, Nat.sub_self, Nat.pow_zero, Nat.div_one]

/-- `beNat` on the message's bytes is a left inverse of BE8. -/
theorem be8_injective : Function.Injective be8 := by
  intro c d h
  apply BitVec.eq_of_toNat_eq
  rw [← beNat_be8 c, ← beNat_be8 d, h]

/-- Settles O32: byte i is a base 256 digit of COUNTER, whose halves are the two registers. -/
theorem messageIsBigEndianCounter : Obligations.MessageIsBigEndianCounter := by
  intro s i hi
  rw [← counter_toNat]
  exact be8_getElem_toNat s.counter i hi

/-- Settles O33: reading back is a left inverse of BE8. -/
theorem messageRoundTrip : Obligations.MessageRoundTrip :=
  ⟨beNat_be8, fun _ _ h => be8_injective h⟩

end Sys2Proof.Proofs.MessagePort
end

section
/-! The HMAC primitive of the platform: the length of its answers (41_hmac.md R121). -/

namespace Sys2Proof.Proofs.HmacPrimitive

open Sys2Proof Sys2Proof.Machine Sys2Proof.Proofs.AlgTable

theorem digestLen_of_algTable {alg : BitVec 4} {desc : AlgDesc} (h : algTable alg = some desc) :
    digestLen alg = desc.L := by
  simp only [digestLen, h]

/-- The L bytes of a present entry are there to be taken: the port answers 64, and L is at most that. -/
theorem hmacFn_ok_length {alg : BitVec 4} {desc : AlgDesc} {key : List Byte} {msg : Message} {digest : List Byte}
    (htable : algTable alg = some desc) (h : hmacFn alg key msg = .ok digest) : digest.length = desc.L := by
  obtain ⟨_, hmax⟩ := (wellFormed_iff desc).mp (wellFormed_of_algTable htable)
  unfold hmacFn at h
  split at h
  next bytes _ =>
    cases h
    rw [List.length_take, Vector.length_toList, digestLen_of_algTable htable, Nat.min_eq_left hmax]
  next => cases h

/-- Settles O6: `hmacFn` takes the first L of the port's 64 bytes. -/
theorem primitiveAnswersDigestLength : Obligations.PrimitiveAnswersDigestLength := by
  intro alg desc key msg htable
  cases hhash : platform.hash alg key msg with
  | ok digest => exact hmacFn_ok_length htable hhash
  | fail c => trivial

end Sys2Proof.Proofs.HmacPrimitive
end

section
/-! The input checks of HMAC and GENERATE (41_hmac.md R124, 44_sequencer.md R181): which inputs they let through, which
error is the first, and that only ALG_TABLE of the primitive takes part in them (41_hmac.md R127). -/

namespace Sys2Proof.Proofs.InputChecks

open Sys2Proof Sys2Proof.Machine

variable {p q : Primitive} {s : State} {desc : AlgDesc} {e : CmdError}

/-! ## The checks -/

theorem klen_bounds_of_checkKey (h : checkKey s = .ok ()) : 1 ≤ s.klen.toNat ∧ s.klen.toNat ≤ 128 := by
  by_cases hzero : s.klen.toNat = 0
  · rw [checkKey_zero hzero] at h
    cases h
  by_cases hlong : 128 < s.klen.toNat
  · rw [checkKey_long hlong] at h
    cases h
  · omega

theorem hmacInputs_of_table_none (h : p.table s.alg = none) : hmacInputs p s = .error .badAlg := by
  simp only [hmacInputs, algOperand_none h]

theorem hmacInputs_of_checkKey_error (htable : p.table s.alg = some desc) (h : checkKey s = .error e) :
    hmacInputs p s = .error e := by
  simp only [hmacInputs, algOperand_some htable, h]

theorem hmacInputs_of_valid (htable : p.table s.alg = some desc) (hlow : 1 ≤ s.klen.toNat) (hhigh : s.klen.toNat ≤ 128) :
    hmacInputs p s = .ok desc := by
  simp only [hmacInputs, algOperand_some htable, checkKey_valid hlow hhigh]

/-- With a bad input the checks of HMAC end in one of their errors. -/
theorem exists_hmacInputs_error (h : p.table s.alg = none ∨ s.klen.toNat = 0 ∨ 128 < s.klen.toNat) :
    ∃ e, hmacInputs p s = .error e := by
  cases htable : p.table s.alg with
  | none => exact ⟨_, hmacInputs_of_table_none htable⟩
  | some desc =>
    rcases h with hnone | hzero | hlong
    · rw [htable] at hnone
      cases hnone
    · exact ⟨_, hmacInputs_of_checkKey_error htable (checkKey_zero hzero)⟩
    · exact ⟨_, hmacInputs_of_checkKey_error htable (checkKey_long hlong)⟩

/-- With a bad input the checks of GENERATE end in one of their errors, since those they let through are in range. -/
theorem exists_generateInputs_error
    (h : p.table s.alg = none ∨ s.klen.toNat = 0 ∨ 128 < s.klen.toNat ∨ s.digits.toNat = 0 ∨ 19 < s.digits.toNat) :
    ∃ e, generateInputs p s = .error e := by
  cases hinputs : generateInputs p s with
  | error e => exact ⟨e, rfl⟩
  | ok operands =>
    obtain ⟨htable, hdigits, hdlow, hdhigh, hkey⟩ := generateInputs_ok hinputs
    obtain ⟨hklow, hkhigh⟩ := klen_bounds_of_checkKey hkey
    rcases h with hnone | hrange
    · rw [htable] at hnone
      cases hnone
    · omega

theorem hmacInputs_congr (h : p.table = q.table) (s : State) : hmacInputs p s = hmacInputs q s := by
  unfold hmacInputs algOperand
  rw [h]

theorem generateInputs_congr (h : p.table = q.table) (s : State) : generateInputs p s = generateInputs q s := by
  unfold generateInputs algOperand
  rw [h]

/-! ## An input error ends the command -/

theorem runHmac_of_inputs_error (h : hmacInputs p s = .error e) : runHmac p s = .error e := by
  simp only [runHmac, h]

theorem runGenerate_of_inputs_error (h : generateInputs p s = .error e) : runGenerate p s = .error e := by
  simp only [runGenerate, h]

theorem exec_hmac_of_inputs_error (h : hmacInputs platform s = .error e) : exec .hmac s = .next (s.failWith e) := by
  rw [exec_eq, runOf, runHmac_of_inputs_error h, complete_error]

/-- Settles O35, by the order of the checks in `hmacInputs`. -/
theorem hmacReportsFirstInputError : Obligations.HmacReportsFirstInputError := by
  intro s
  cases htable : platform.table s.alg with
  | none => exact exec_hmac_of_inputs_error (hmacInputs_of_table_none htable)
  | some desc =>
    exact ⟨fun hzero => exec_hmac_of_inputs_error (hmacInputs_of_checkKey_error htable (checkKey_zero hzero)),
      fun hlong => exec_hmac_of_inputs_error (hmacInputs_of_checkKey_error htable (checkKey_long hlong))⟩

/-- Settles O36: the checks answer the same error for both primitives, and each command ends in it. -/
theorem inputErrorsNeverReachPrimitive : Obligations.InputErrorsNeverReachPrimitive := by
  intro p q s htable
  constructor
  · intro hbad
    obtain ⟨e, hp⟩ := exists_hmacInputs_error hbad
    have hq : hmacInputs q s = .error e := hmacInputs_congr htable s ▸ hp
    rw [runHmac_of_inputs_error hp, runHmac_of_inputs_error hq]
  · intro hbad
    obtain ⟨e, hp⟩ := exists_generateInputs_error hbad
    have hq : generateInputs q s = .error e := generateInputs_congr htable s ▸ hp
    rw [runGenerate_of_inputs_error hp, runGenerate_of_inputs_error hq]

end Sys2Proof.Proofs.InputChecks
end

section
/-! HMAC once its inputs are met (41_hmac.md R124 to R126). -/

namespace Sys2Proof.Proofs.HmacResult

open Sys2Proof Sys2Proof.Machine Sys2Proof.Proofs.AlgTable Sys2Proof.Proofs.InputChecks

variable {p : Primitive} {s : State} {desc : AlgDesc}

theorem runHmac_of_hash_ok {digest : List Byte} (hinputs : hmacInputs p s = .ok desc)
    (hhash : p.hash s.alg s.keyBytes s.message = .ok digest) :
    runHmac p s = .ok (s.storeDigest digest desc.L) := by
  simp only [runHmac, hinputs, callPrimitive, hhash]

theorem runHmac_of_hash_fail {c : Byte} (hinputs : hmacInputs p s = .ok desc)
    (hhash : p.hash s.alg s.keyBytes s.message = .fail c) : runHmac p s = .error (.hashFail c) := by
  simp only [runHmac, hinputs, callPrimitive, hhash]

theorem storeDigest_dlen_toNat (s : State) (digest : List Byte) {len : Nat} (h : len ≤ 64) :
    (s.storeDigest digest len).dlen.toNat = len := by
  rw [storeDigest_dlen, BitVec.toNat_ofNat, Nat.mod_eq_of_lt (by omega)]

/-- Settles O34, by the two answers of the primitive: `storeDigest` on Ok, HASH_FAIL on Fail. -/
theorem hmacStoresDigest : Obligations.HmacStoresDigest := by
  intro s desc htable hlow hhigh
  have hinputs : hmacInputs platform s = .ok desc := hmacInputs_of_valid htable hlow hhigh
  refine ⟨_, exec_eq .hmac s, ?_⟩
  cases hhash : platform.hash s.alg (s.key.toList.take s.klen.toNat) s.message with
  | ok digest =>
    obtain ⟨_, hmax⟩ := (wellFormed_iff desc).mp (wellFormed_of_algTable htable)
    rw [runOf, runHmac_of_hash_ok hinputs hhash, complete_ok]
    exact ⟨storeDigest_digest_getElem s digest desc.L, storeDigest_dlen_toNat s digest hmax, rfl⟩
  | fail c =>
    rw [runOf, runHmac_of_hash_fail hinputs hhash, complete_error]
    rfl

end Sys2Proof.Proofs.HmacResult
end

section
/-! The bytes of KEY that a command uses, KEY[0..KLEN-1] (41_hmac.md R123). -/

namespace Sys2Proof.Proofs.KeyBytes

open Sys2Proof Sys2Proof.Machine

/-- The same state with another KEY. -/
def withKey (key : Vector Byte 128) (s : State) : State := { s with key := key }

variable {s : State} {key : Vector Byte 128}

theorem keyBytes_withKey (h : ∀ (j : Nat) (_ : j < 128), j < s.klen.toNat → key[j] = s.key[j]) :
    (withKey key s).keyBytes = s.keyBytes := by
  apply List.ext_getElem
  · simp [State.keyBytes, withKey]
  · intro j hj _
    simp only [State.keyBytes, withKey, List.length_take, Vector.length_toList] at hj
    simp only [State.keyBytes, withKey, List.getElem_take, Vector.getElem_toList]
    exact h j (by omega) (by omega)

/-- The call of the primitive sees KEY through `keyBytes` alone. -/
theorem callPrimitive_withKey (h : (withKey key s).keyBytes = s.keyBytes) (p : Primitive) :
    callPrimitive p (withKey key s) = callPrimitive p s := by
  unfold callPrimitive
  rw [h]
  rfl

theorem runHmac_withKey (h : (withKey key s).keyBytes = s.keyBytes) (p : Primitive) :
    runHmac p (withKey key s) = (runHmac p s).map (withKey key) := by
  have hinputs : hmacInputs p (withKey key s) = hmacInputs p s := rfl
  unfold runHmac
  rw [hinputs, callPrimitive_withKey h]
  cases hmacInputs p s with
  | error e => rfl
  | ok desc => cases callPrimitive p s <;> rfl

theorem runTrunc_withKey (s : State) (key : Vector Byte 128) :
    runTrunc (withKey key s) = (runTrunc s).map (withKey key) := by
  have hcheck : checkDigestLen (withKey key s) = checkDigestLen s := rfl
  have hbytes : (withKey key s).digestBytes = s.digestBytes := rfl
  have hlen : (withKey key s).dlen = s.dlen := rfl
  unfold runTrunc
  rw [hcheck, hbytes, hlen]
  cases checkDigestLen s with
  | error e => rfl
  | ok _ =>
    dsimp only
    split_ifs <;> rfl

theorem runFormat_withKey (s : State) (key : Vector Byte 128) :
    runFormat (withKey key s) = (runFormat s).map (withKey key) := by
  have hdigits : digitsOperand (withKey key s) = digitsOperand s := rfl
  unfold runFormat
  rw [hdigits]
  cases digitsOperand s <;> rfl

theorem runGenerate_withKey (h : (withKey key s).keyBytes = s.keyBytes) (p : Primitive) :
    runGenerate p (withKey key s) = (runGenerate p s).map (withKey key) := by
  have hinputs : generateInputs p (withKey key s) = generateInputs p s := rfl
  unfold runGenerate
  rw [hinputs, callPrimitive_withKey h]
  cases generateInputs p s with
  | error e => rfl
  | ok operands => cases callPrimitive p s <;> rfl

theorem runOf_withKey {i : Instr} (hclear : i ≠ .clear) (h : (withKey key s).keyBytes = s.keyBytes) :
    runOf i (withKey key s) = (runOf i s).map (withKey key) := by
  cases i with
  | hmac => exact runHmac_withKey h platform
  | trunc => exact runTrunc_withKey s key
  | format => exact runFormat_withKey s key
  | generate => exact runGenerate_withKey h platform
  | clear => exact absurd rfl hclear

theorem complete_map_withKey (s : State) (key : Vector Byte 128) (outcome : Except CmdError State) :
    (withKey key s).complete (outcome.map (withKey key)) = withKey key (s.complete outcome) := by
  cases outcome <;> rfl

/-- A command other than CLEAR looks at KEY through `keyBytes` alone, and carries KEY itself through. -/
theorem exec_withKey {i : Instr} (hclear : i ≠ .clear) (h : (withKey key s).keyBytes = s.keyBytes) :
    exec i (withKey key s) = .next (withKey key (s.complete (runOf i s))) := by
  rw [exec_eq, runOf_withKey hclear h, complete_map_withKey]

/-- CLEAR overwrites KEY, whatever it was. -/
theorem exec_clear_withKey (s : State) (key : Vector Byte 128) : exec .clear (withKey key s) = exec .clear s := rfl

/-- Settles O37: CLEAR erases the difference in KEY, and every other command carries it through. -/
theorem keyBytesPastKlenAreNotUsed : Obligations.KeyBytesPastKlenAreNotUsed := by
  intro i s key hagree
  refine ⟨s.complete (runOf i s), ?_⟩
  by_cases hclear : i = .clear
  · subst hclear
    exact ⟨_, exec_eq .clear s, (exec_clear_withKey s key).trans (exec_eq .clear s)⟩
  · exact ⟨key, exec_eq i s, exec_withKey hclear (keyBytes_withKey hagree)⟩

end Sys2Proof.Proofs.KeyBytes
end

section
/-! TRUNC by the bytes of DIGEST (42_truncation_selector.md R141 to R146): which digests its checks let through, what it
selects from the others, and which bytes that depends on. -/

namespace Sys2Proof.Proofs.Truncation

open Sys2Proof Sys2Proof.Machine

variable {s : State}

/-! ## The checks -/

theorem checkDigestLen_bad (h : s.dlen.toNat = 0 ∨ 64 < s.dlen.toNat) : checkDigestLen s = .error .badDigestLen := by
  simp [checkDigestLen, h]

theorem checkDigestLen_valid (hlow : 1 ≤ s.dlen.toNat) (hhigh : s.dlen.toNat ≤ 64) : checkDigestLen s = .ok () := by
  have hgood : ¬(s.dlen.toNat = 0 ∨ s.dlen.toNat > 64) := by omega
  simp only [checkDigestLen, hgood, if_false]

/-- The offset is the low nibble of DIGEST[DLEN-1] (R143). -/
theorem truncOffset_digestBytes_toNat (hlow : 1 ≤ s.dlen.toNat) (hhigh : s.dlen.toNat ≤ 64) :
    (truncOffset s.digestBytes s.dlen.toNat).toNat = s.digest[s.dlen.toNat - 1].toNat % 16 := by
  rw [truncOffset_toNat, digestBytes_getD s (s.dlen.toNat - 1) (by omega) hhigh]

theorem runTrunc_of_bad_length (h : s.dlen.toNat = 0 ∨ 64 < s.dlen.toNat) : runTrunc s = .error .badDigestLen := by
  simp only [runTrunc, checkDigestLen_bad h]

theorem runTrunc_of_short (hlow : 1 ≤ s.dlen.toNat) (hhigh : s.dlen.toNat ≤ 64)
    (hshort : s.dlen.toNat < s.digest[s.dlen.toNat - 1].toNat % 16 + 4) : runTrunc s = .error .shortDigest := by
  rw [← truncOffset_digestBytes_toNat hlow hhigh] at hshort
  simp only [runTrunc, checkDigestLen_valid hlow hhigh, if_pos hshort]

theorem runTrunc_of_long_enough (hlow : 1 ≤ s.dlen.toNat) (hhigh : s.dlen.toNat ≤ 64)
    (hlong : s.digest[s.dlen.toNat - 1].toNat % 16 + 4 ≤ s.dlen.toNat) :
    runTrunc s = .ok (s.storeTrunc (truncate s.digestBytes s.dlen.toNat)) := by
  rw [← truncOffset_digestBytes_toNat hlow hhigh] at hlong
  simp only [runTrunc, checkDigestLen_valid hlow hhigh, if_neg (Nat.not_lt.mpr hlong)]

/-! ## The result -/

theorem exec_trunc_of_error {e : CmdError} (h : runTrunc s = .error e) : exec .trunc s = .next (s.failWith e) := by
  rw [exec_eq, runOf, h, complete_error]

/-- Settles O39, by the order of the checks in `runTrunc`. -/
theorem truncReportsFirstError : Obligations.TruncReportsFirstError := by
  intro s
  exact ⟨fun hbad => exec_trunc_of_error (runTrunc_of_bad_length hbad),
    fun hlow hhigh hshort => exec_trunc_of_error (runTrunc_of_short hlow hhigh hshort)⟩

/-- A window inside DIGEST[0..DLEN-1] is read from DIGEST, with the mask on its first byte alone (R145). -/
theorem truncWindow_digestBytes_toNat {off : Nat} (hwindow : off + 4 ≤ s.dlen.toNat) (hhigh : s.dlen.toNat ≤ 64) :
    (truncWindow s.digestBytes off).toNat =
      s.digest[off].toNat % 128 * 2 ^ 24 + s.digest[off + 1].toNat * 2 ^ 16 + s.digest[off + 2].toNat * 2 ^ 8 +
        s.digest[off + 3].toNat := by
  rw [truncWindow_toNat, digestBytes_getD s off (by omega) hhigh, digestBytes_getD s (off + 1) (by omega) hhigh,
    digestBytes_getD s (off + 2) (by omega) hhigh, digestBytes_getD s (off + 3) (by omega) hhigh]

/-- Settles O38: the checks pass, and OFFSET and TRUNC take the two parts of `truncate`. -/
theorem truncSelectsWindow : Obligations.TruncSelectsWindow := by
  intro s off hlow hhigh hoff hwindow
  have hoffset : (truncOffset s.digestBytes s.dlen.toNat).toNat = off :=
    (truncOffset_digestBytes_toNat hlow hhigh).trans hoff.symm
  refine ⟨_, exec_eq .trunc s, ?_⟩
  rw [runOf, runTrunc_of_long_enough hlow hhigh (hoff ▸ hwindow), complete_ok]
  refine ⟨hoffset, ?_, rfl⟩
  calc
    _ = (truncWindow s.digestBytes off).toNat := by rw [← hoffset]; rfl
    _ = _ := truncWindow_digestBytes_toNat hwindow hhigh

/-! ## The bytes that take part -/

/-- The same state with another DIGEST. -/
def withDigest (digest : Vector Byte 64) (s : State) : State := { s with digest := digest }

variable {digest : Vector Byte 64}

theorem truncOffset_withDigest (hlow : 1 ≤ s.dlen.toNat) (hhigh : s.dlen.toNat ≤ 64)
    (hlast : digest[s.dlen.toNat - 1] = s.digest[s.dlen.toNat - 1]) :
    truncOffset (withDigest digest s).digestBytes s.dlen.toNat = truncOffset s.digestBytes s.dlen.toNat := by
  apply BitVec.eq_of_toNat_eq
  rw [truncOffset_digestBytes_toNat hlow hhigh, ← hlast]
  exact truncOffset_digestBytes_toNat (s := withDigest digest s) hlow hhigh

theorem truncWindow_withDigest {off : Nat} (hwindow : off + 4 ≤ s.dlen.toNat) (hhigh : s.dlen.toNat ≤ 64)
    (hagree : ∀ (j : Nat) (_ : j < 64), off ≤ j → j < off + 4 → digest[j] = s.digest[j]) :
    truncWindow (withDigest digest s).digestBytes off = truncWindow s.digestBytes off := by
  apply BitVec.eq_of_toNat_eq
  rw [truncWindow_digestBytes_toNat hwindow hhigh, ← hagree off (by omega) (by omega) (by omega),
    ← hagree (off + 1) (by omega) (by omega) (by omega), ← hagree (off + 2) (by omega) (by omega) (by omega),
    ← hagree (off + 3) (by omega) (by omega) (by omega)]
  exact truncWindow_digestBytes_toNat (s := withDigest digest s) hwindow hhigh

theorem truncate_withDigest (hlow : 1 ≤ s.dlen.toNat) (hhigh : s.dlen.toNat ≤ 64)
    (hlast : digest[s.dlen.toNat - 1] = s.digest[s.dlen.toNat - 1])
    (hwindow : s.digest[s.dlen.toNat - 1].toNat % 16 + 4 ≤ s.dlen.toNat)
    (hagree : ∀ (j : Nat) (_ : j < 64), s.digest[s.dlen.toNat - 1].toNat % 16 ≤ j →
      j < s.digest[s.dlen.toNat - 1].toNat % 16 + 4 → digest[j] = s.digest[j]) :
    truncate (withDigest digest s).digestBytes s.dlen.toNat = truncate s.digestBytes s.dlen.toNat := by
  rw [truncate, truncate, truncOffset_withDigest hlow hhigh hlast, truncOffset_digestBytes_toNat hlow hhigh,
    truncWindow_withDigest hwindow hhigh hagree]

/-- With the last byte and the window kept, TRUNC ends the same way and carries DIGEST itself through: the last byte alone
says whether the window fits. -/
theorem runTrunc_withDigest (hlow : 1 ≤ s.dlen.toNat) (hhigh : s.dlen.toNat ≤ 64)
    (hlast : digest[s.dlen.toNat - 1] = s.digest[s.dlen.toNat - 1])
    (hagree : ∀ (j : Nat) (_ : j < 64), s.digest[s.dlen.toNat - 1].toNat % 16 ≤ j →
      j < s.digest[s.dlen.toNat - 1].toNat % 16 + 4 → digest[j] = s.digest[j]) :
    runTrunc (withDigest digest s) = (runTrunc s).map (withDigest digest) := by
  by_cases hwindow : s.digest[s.dlen.toNat - 1].toNat % 16 + 4 ≤ s.dlen.toNat
  · rw [runTrunc_of_long_enough hlow hhigh hwindow,
      runTrunc_of_long_enough (s := withDigest digest s) hlow hhigh (hlast ▸ hwindow)]
    exact congrArg (fun r => Except.ok ((withDigest digest s).storeTrunc r))
      (truncate_withDigest hlow hhigh hlast hwindow hagree)
  · have hshort := Nat.not_le.mp hwindow
    rw [runTrunc_of_short hlow hhigh hshort,
      runTrunc_of_short (s := withDigest digest s) hlow hhigh (hlast ▸ hshort)]
    rfl

theorem complete_map_withDigest (s : State) (digest : Vector Byte 64) (outcome : Except CmdError State) :
    (withDigest digest s).complete (outcome.map (withDigest digest)) = withDigest digest (s.complete outcome) := by
  cases outcome <;> rfl

/-- Settles O40: `runTrunc` gives both states one outcome, and the completion carries the difference in DIGEST through. -/
theorem truncReadsOnlyWindowAndLastByte : Obligations.TruncReadsOnlyWindowAndLastByte := by
  intro s digest hlow hhigh hlast hagree
  refine ⟨_, exec_eq .trunc s, ?_⟩
  calc
    exec .trunc (withDigest digest s)
      = .next ((withDigest digest s).complete ((runTrunc s).map (withDigest digest))) := by
        rw [exec_eq, runOf, runTrunc_withDigest hlow hhigh hlast hagree]
    _ = .next (withDigest digest (s.complete (runTrunc s))) := by rw [complete_map_withDigest]

end Sys2Proof.Proofs.Truncation
end

section
/-! FORMAT by the decimal digits of TRUNC mod 10^DIGITS (43_modulo_formatter.md R161 to R167): pow10, one character, the
characters read back as a numeral, and the command. -/

namespace Sys2Proof.Proofs.Formatter

open Sys2Proof Sys2Proof.Machine

/-! ## The arithmetic, exact in 64 bits -/

/-- Up to 10^19 no product reaches 2^64 (R162). -/
theorem pow10_toNat {d : Nat} (hd : d ≤ 19) : (pow10 d).toNat = 10 ^ d := by
  induction d with
  | zero => rfl
  | succ d ih =>
    have hbound : 10 ^ (d + 1) ≤ 10 ^ 19 := Nat.pow_le_pow_right (by decide) hd
    calc
      (pow10 d * 10).toNat = 10 ^ d * 10 % 2 ^ 64 := by rw [BitVec.toNat_mul, ih (by omega)]; rfl
      _ = 10 ^ (d + 1) := by omega

/-- Settles O41. -/
theorem pow10IsExact : Obligations.Pow10IsExact := fun _ => pow10_toNat

theorem codeValue_toNat (v : BitVec 31) {d : Nat} (hd : d ≤ 19) : (codeValue v d).toNat = v.toNat % 10 ^ d := by
  rw [codeValue, BitVec.toNat_umod, BitVec.toNat_setWidth_of_le (by decide), pow10_toNat hd]

theorem codeValue_toNat_lt (v : BitVec 31) {d : Nat} (hd : d ≤ 19) : (codeValue v d).toNat < 10 ^ d := by
  rw [codeValue_toNat v hd]
  exact Nat.mod_lt _ (by positivity)

/-- A 31-bit value is below 10^10, so from 10 digits on the reduction keeps it whole (R167). -/
theorem trunc_mod_of_ten_le (v : BitVec 31) {d : Nat} (hd : 10 ≤ d) : v.toNat % 10 ^ d = v.toNat := by
  have hpow : 10 ^ 10 ≤ 10 ^ d := Nat.pow_le_pow_right (by decide) hd
  exact Nat.mod_eq_of_lt (by omega)

/-! ## The characters -/

theorem ascii_toNat {n : BitVec 64} (h : n.toNat < 10) : (ascii n).toNat = 0x30 + n.toNat := by
  rw [ascii, BitVec.toNat_add, BitVec.toNat_setWidth, show (0x30 : Byte).toNat = 0x30 from rfl]
  omega

theorem digitChar_toNat (r : BitVec 64) {i : Nat} (hi : i ≤ 19) :
    (digitChar r i).toNat = 0x30 + r.toNat / 10 ^ i % 10 := by
  have hdigit : (r / pow10 i % 10).toNat = r.toNat / 10 ^ i % 10 := by
    rw [BitVec.toNat_umod, BitVec.toNat_udiv, pow10_toNat hi]
    rfl
  rw [digitChar, ascii_toNat (by omega), hdigit]

theorem render_codeLen_toNat (s : State) (r : BitVec 64) {d : Nat} (hd : d ≤ 19) :
    (s.render r d).codeLen.toNat = d := by
  simp only [render_codeLen, BitVec.toNat_ofNat]
  omega

theorem render_codeByte (s : State) (r : BitVec 64) {d : Nat} (hd : d ≤ 19) (j : Nat) :
    (s.render r d).codeByte j = if j < d then digitChar r (d - 1 - j) else 0 := by
  by_cases hj : j < 19
  · rw [Lanes.codeByte_of_lt _ hj, render_code_getElem]
  · rw [State.codeByte, dif_neg hj, if_neg (by omega)]

/-- Every byte of CODE after a rendering, those past the last character included (R163, R166). -/
theorem render_codeByte_toNat (s : State) (r : BitVec 64) {d : Nat} (hd : d ≤ 19) (j : Nat) :
    ((s.render r d).codeByte j).toNat = if j < d then 0x30 + r.toNat / 10 ^ (d - 1 - j) % 10 else 0 := by
  rw [render_codeByte s r hd]
  split
  · exact digitChar_toNat r (by omega)
  · rfl

/-! ## The characters read back -/

/-- The decimal numeral that a sequence of characters writes, as the obligations read it. -/
def readDecimal (chars : List Byte) : Nat := chars.foldl (fun n b => 10 * n + (b.toNat - 0x30)) 0

theorem readDecimal_concat (chars : List Byte) (b : Byte) :
    readDecimal (chars ++ [b]) = 10 * readDecimal chars + (b.toNat - 0x30) := by
  simp [readDecimal]

/-- The first k of d characters write the value without its last d-k digits. -/
theorem readDecimal_take_render (s : State) {r : BitVec 64} {d : Nat} (hd : d ≤ 19) (hr : r.toNat < 10 ^ d) {k : Nat}
    (hk : k ≤ d) : readDecimal ((s.render r d).code.toList.take k) = r.toNat / 10 ^ (d - k) := by
  induction k with
  | zero => exact (Nat.div_eq_of_lt hr).symm
  | succ k ih =>
    have hlen : k < (s.render r d).code.toList.length := by rw [Vector.length_toList]; omega
    have hdigit : (s.render r d).code.toList[k].toNat = 0x30 + r.toNat / 10 ^ (d - 1 - k) % 10 := by
      rw [Vector.getElem_toList, render_code_getElem, if_pos (Nat.lt_of_succ_le hk), digitChar_toNat r (by omega)]
    have hupper : r.toNat / 10 ^ (d - k) = r.toNat / 10 ^ (d - 1 - k) / 10 := by
      rw [Nat.div_div_eq_div_mul, ← Nat.pow_succ, show d - k = d - 1 - k + 1 by omega]
    rw [List.take_succ_eq_append_getElem hlen, readDecimal_concat, ih (by omega), hdigit, hupper, Nat.add_sub_cancel_left,
      Nat.div_add_mod, show d - (k + 1) = d - 1 - k by omega]

theorem readDecimal_render (s : State) {r : BitVec 64} {d : Nat} (hd : d ≤ 19) (hr : r.toNat < 10 ^ d) :
    readDecimal ((s.render r d).code.toList.take (s.render r d).codeLen.toNat) = r.toNat := by
  rw [render_codeLen_toNat s r hd, readDecimal_take_render s hd hr le_rfl, Nat.sub_self, pow_zero, Nat.div_one]

/-! ## The command -/

theorem exec_format_of_valid {s : State} (hlow : 1 ≤ s.digits.toNat) (hhigh : s.digits.toNat ≤ 19) :
    exec .format s = .next ((s.render (codeValue s.trunc s.digits.toNat) s.digits.toNat).finish 0 0) := by
  rw [exec_eq, runOf, runFormat, digitsOperand_good hlow hhigh, complete_ok]

/-- Settles O43: `digitsOperand` refuses the count. -/
theorem formatRejectsDigits : Obligations.FormatRejectsDigits := by
  intro s hbad
  rw [exec_eq, runOf, runFormat, digitsOperand_bad hbad]
  rfl

/-- Settles O42: `render` writes CODE and CODE_LEN, and its characters are the digits of `codeValue`. -/
theorem formatRendersDecimal : Obligations.FormatRendersDecimal := by
  intro s hlow hhigh
  refine ⟨_, exec_format_of_valid hlow hhigh, render_codeLen_toNat s (codeValue s.trunc s.digits.toNat) hhigh,
    fun j => ?_, rfl⟩
  rw [← codeValue_toNat s.trunc hhigh]
  exact render_codeByte_toNat s _ hhigh j

/-- Settles O44: the numeral is `codeValue`, which from 10 digits on is TRUNC whole. -/
theorem codeReadsAsTruncModulo : Obligations.CodeReadsAsTruncModulo := by
  intro s hlow hhigh
  have hnumeral := (readDecimal_render s hhigh (codeValue_toNat_lt s.trunc hhigh)).trans (codeValue_toNat s.trunc hhigh)
  exact ⟨_, exec_format_of_valid hlow hhigh, hnumeral, fun hten => hnumeral.trans (trunc_mod_of_ten_le s.trunc hten)⟩

end Sys2Proof.Proofs.Formatter
end

section
/-! GENERATE's input checks in their order, and its errors (44_sequencer.md R181, R182, 60_exceptions.md R203). -/

namespace Sys2Proof.Proofs.GenerateInputs

open Sys2Proof Sys2Proof.Machine Sys2Proof.Proofs.InputChecks

variable {p : Primitive} {s : State} {desc : AlgDesc} {e : CmdError}

/-! ## The checks -/

theorem generateInputs_of_table_none (h : p.table s.alg = none) : generateInputs p s = .error .badAlg := by
  simp only [generateInputs, algOperand_none h]

theorem generateInputs_of_digits_error (htable : p.table s.alg = some desc) (h : digitsOperand s = .error e) :
    generateInputs p s = .error e := by
  simp only [generateInputs, algOperand_some htable, h]

theorem generateInputs_of_checkKey_error (htable : p.table s.alg = some desc) (hlow : 1 ≤ s.digits.toNat)
    (hhigh : s.digits.toNat ≤ 19) (h : checkKey s = .error e) : generateInputs p s = .error e := by
  simp only [generateInputs, algOperand_some htable, digitsOperand_good hlow hhigh, h]

theorem generateInputs_of_valid (htable : p.table s.alg = some desc) (hklow : 1 ≤ s.klen.toNat)
    (hkhigh : s.klen.toNat ≤ 128) (hlow : 1 ≤ s.digits.toNat) (hhigh : s.digits.toNat ≤ 19) :
    generateInputs p s = .ok (desc, s.digits.toNat) := by
  simp only [generateInputs, algOperand_some htable, digitsOperand_good hlow hhigh, checkKey_valid hklow hkhigh]

theorem algOperand_error (h : algOperand p s = .error e) : e = .badAlg := by
  unfold algOperand at h
  split at h <;> cases h
  rfl

theorem digitsOperand_error (h : digitsOperand s = .error e) : e = .invalidDigits := by
  unfold digitsOperand at h
  split at h <;> cases h
  rfl

theorem checkKey_error (h : checkKey s = .error e) : e = .invalidSecret ∨ e = .keyLen := by
  unfold checkKey at h
  split_ifs at h <;> cases h
  · exact .inl rfl
  · exact .inr rfl

/-- The checks end in one of four errors, that of the first check that fails. -/
theorem generateInputs_error_cases (h : generateInputs p s = .error e) :
    e = .badAlg ∨ e = .invalidDigits ∨ e = .invalidSecret ∨ e = .keyLen := by
  unfold generateInputs at h
  cases halg : algOperand p s with
  | error e' =>
    rw [halg] at h
    cases h
    exact .inl (algOperand_error halg)
  | ok desc =>
    cases hdigits : digitsOperand s with
    | error e' =>
      rw [halg, hdigits] at h
      cases h
      exact .inr (.inl (digitsOperand_error hdigits))
    | ok d =>
      cases hkey : checkKey s with
      | error e' =>
        rw [halg, hdigits, hkey] at h
        cases h
        exact .inr (.inr (checkKey_error hkey))
      | ok _ =>
        rw [halg, hdigits, hkey] at h
        cases h

/-! ## The errors -/

theorem exec_generate_of_inputs_error (h : generateInputs platform s = .error e) :
    exec .generate s = .next (s.failWith e) := by
  rw [exec_eq, runOf, runGenerate_of_inputs_error h, complete_error]

/-- Settles O46, by the order of the checks in `generateInputs`. -/
theorem generateReportsFirstInputError : Obligations.GenerateReportsFirstInputError := by
  intro s
  cases htable : platform.table s.alg with
  | none => exact exec_generate_of_inputs_error (generateInputs_of_table_none htable)
  | some desc =>
    refine ⟨fun hbad => ?_, fun hlow hhigh hzero => ?_, fun hlow hhigh hlong => ?_⟩
    · exact exec_generate_of_inputs_error (generateInputs_of_digits_error htable (digitsOperand_bad hbad))
    · exact exec_generate_of_inputs_error
        (generateInputs_of_checkKey_error htable hlow hhigh (checkKey_zero hzero))
    · exact exec_generate_of_inputs_error
        (generateInputs_of_checkKey_error htable hlow hhigh (checkKey_long hlong))

/-- Settles O49, by the three ways a GENERATE can end. -/
theorem generateErrorsAreInputOrHashFail : Obligations.GenerateErrorsAreInputOrHashFail := by
  intro s
  refine ⟨_, exec_eq .generate s, ?_⟩
  rcases runGenerate_cases platform s with ⟨e, hinputs, hrun⟩ | ⟨_, _, c, _, _, hrun⟩ | ⟨_, _, _, _, _, hrun⟩ <;>
    rw [runOf, hrun]
  · rw [complete_error, failWith_err]
    rcases generateInputs_error_cases hinputs with rfl | rfl | rfl | rfl <;> decide
  · exact .inr (.inr (.inr (.inr (.inr rfl))))
  · exact .inl rfl

end Sys2Proof.Proofs.GenerateInputs
end

section
/-! GENERATE once its inputs are met: what it stores, the sequence of commands it stands for, and what its result depends on
(44_sequencer.md R181, R183, R185). -/

namespace Sys2Proof.Proofs.GenerateResult

open Sys2Proof Sys2Proof.Machine Sys2Proof.Proofs.AlgTable Sys2Proof.Proofs.InputChecks Sys2Proof.Proofs.HmacPrimitive
open Sys2Proof.Proofs.HmacResult Sys2Proof.Proofs.Truncation Sys2Proof.Proofs.Formatter Sys2Proof.Proofs.GenerateInputs

variable {p : Primitive} {s s' : State} {desc : AlgDesc} {digest : List Byte}

/-! ## By the answer of the primitive -/

theorem runGenerate_of_hash_ok {d : Nat} (hinputs : generateInputs p s = .ok (desc, d))
    (hhash : p.hash s.alg s.keyBytes s.message = .ok digest) :
    runGenerate p s = .ok (s.storeGenerated digest desc.L d) := by
  simp only [runGenerate, hinputs, callPrimitive, hhash]

theorem runGenerate_of_hash_fail {d : Nat} {c : Byte} (hinputs : generateInputs p s = .ok (desc, d))
    (hhash : p.hash s.alg s.keyBytes s.message = .fail c) : runGenerate p s = .error (.hashFail c) := by
  simp only [runGenerate, hinputs, callPrimitive, hhash]

theorem storeGenerated_codeLen_toNat (s : State) (digest : List Byte) (len : Nat) {d : Nat} (hd : d ≤ 19) :
    (s.storeGenerated digest len d).codeLen.toNat = d :=
  render_codeLen_toNat _ _ hd

/-- The characters are the digits of the truncated value that the same command stores. -/
theorem storeGenerated_codeByte_toNat (s : State) (digest : List Byte) (len : Nat) {d : Nat} (hd : d ≤ 19) (j : Nat) :
    ((s.storeGenerated digest len d).codeByte j).toNat =
      if j < d then 0x30 + (s.storeGenerated digest len d).trunc.toNat % 10 ^ d / 10 ^ (d - 1 - j) % 10 else 0 := by
  rw [← codeValue_toNat _ hd]
  exact render_codeByte_toNat _ _ hd j

/-- Settles O45, by the two answers of the primitive: `storeGenerated` on Ok, HASH_FAIL on Fail. -/
theorem generateStoresAllStages : Obligations.GenerateStoresAllStages := by
  intro s desc htable hklow hkhigh hdlow hdhigh
  have hinputs : generateInputs platform s = .ok (desc, s.digits.toNat) :=
    generateInputs_of_valid htable hklow hkhigh hdlow hdhigh
  refine ⟨_, exec_eq .generate s, ?_⟩
  cases hhash : platform.hash s.alg (s.key.toList.take s.klen.toNat) s.message with
  | ok digest =>
    obtain ⟨_, hmax⟩ := (wellFormed_iff desc).mp (wellFormed_of_algTable htable)
    rw [runOf, runGenerate_of_hash_ok hinputs hhash, complete_ok]
    exact ⟨storeDigest_digest_getElem s digest desc.L, storeDigest_dlen_toNat s digest hmax,
      truncOffset_toNat digest desc.L, truncWindow_toNat digest _,
      storeGenerated_codeLen_toNat s digest desc.L hdhigh, storeGenerated_codeByte_toNat s digest desc.L hdhigh, rfl⟩
  | fail c =>
    rw [runOf, runGenerate_of_hash_fail hinputs hhash, complete_error]
    rfl

/-! ## The three commands one after another -/

/-- A stored digest that fills its length is read back whole. -/
theorem storeDigest_digestBytes (s : State) {len : Nat} (hlen : digest.length = len) (hmax : len ≤ 64) :
    (s.storeDigest digest len).digestBytes = digest := by
  have hdlen := storeDigest_dlen_toNat s digest hmax
  apply List.ext_getElem
  · rw [State.digestBytes, List.length_take, Vector.length_toList, hdlen]
    omega
  · intro j hj hj'
    simp only [State.digestBytes, List.getElem_take, Vector.getElem_toList]
    rw [storeDigest_digest_getElem, if_pos (by omega), List.getD_eq_getElem _ _ hj']

/-- TRUNC on a digest of 20 bytes or more that HMAC has stored: the window ends at byte 18 at the latest, so it fits. -/
theorem exec_trunc_storeDigest (s : State) {len : Nat} (hlen : digest.length = len) (hmin : 20 ≤ len) (hmax : len ≤ 64) :
    exec .trunc ((s.storeDigest digest len).finish 0 0) =
      .next (((s.storeDigest digest len).storeTrunc (truncate digest len)).finish 0 0) := by
  have hfinish : (s.storeDigest digest len).finish 0 0 = (s.finish 0 0).storeDigest digest len := rfl
  have hdlen := storeDigest_dlen_toNat (s.finish 0 0) digest hmax
  rw [exec_eq, runOf, hfinish, runTrunc_of_long_enough (by omega) (by omega) (by omega),
    storeDigest_digestBytes _ hlen hmax, hdlen]
  rfl

/-- Settles O47: HMAC's digest is long enough for TRUNC, and FORMAT runs on the DIGITS that GENERATE has checked. -/
theorem generateIsTheComposition : Obligations.GenerateIsTheComposition := by
  intro s desc htable hklow hkhigh hdlow hdhigh
  have hhmac : hmacInputs platform s = .ok desc := hmacInputs_of_valid htable hklow hkhigh
  have hgenerate : generateInputs platform s = .ok (desc, s.digits.toNat) :=
    generateInputs_of_valid htable hklow hkhigh hdlow hdhigh
  refine ⟨_, exec_eq .hmac s, ?_⟩
  cases hhash : platform.hash s.alg s.keyBytes s.message with
  | ok digest =>
    obtain ⟨hmin, hmax⟩ := (wellFormed_iff desc).mp (wellFormed_of_algTable htable)
    have hlen : digest.length = desc.L := hmacFn_ok_length htable hhash
    rw [runOf, runHmac_of_hash_ok hhmac hhash, complete_ok]
    refine ⟨fun _ => ⟨_, _, exec_trunc_storeDigest s hlen hmin hmax, rfl, exec_format_of_valid hdlow hdhigh, rfl, ?_⟩,
      fun herr => absurd rfl herr⟩
    rw [exec_eq, runOf, runGenerate_of_hash_ok hgenerate hhash]
    rfl
  | fail c =>
    rw [runOf, runHmac_of_hash_fail hhmac hhash, complete_error]
    refine ⟨fun herr => absurd herr (errCode_ne_zero (.hashFail c)), fun _ => ?_⟩
    rw [exec_eq, runOf, runGenerate_of_hash_fail hgenerate hhash, complete_error]

/-! ## The operands -/

theorem generateInputs_congr_operands (halg : s.alg = s'.alg) (hklen : s.klen = s'.klen) (hdigits : s.digits = s'.digits) :
    generateInputs p s = generateInputs p s' := by
  simp only [generateInputs, algOperand, digitsOperand, checkKey, halg, hklen, hdigits]

theorem keyBytes_congr (hklen : s.klen = s'.klen)
    (hkey : ∀ (j : Nat) (_ : j < 128), j < s.klen.toNat → s.key[j] = s'.key[j]) : s.keyBytes = s'.keyBytes := by
  rw [← KeyBytes.keyBytes_withKey fun j hj hjk => (hkey j hj hjk).symm]
  exact congrArg (fun n => s'.key.toList.take n.toNat) hklen

theorem message_congr (hhi : s.counterHi = s'.counterHi) (hlo : s.counterLo = s'.counterLo) : s.message = s'.message := by
  simp only [State.message, State.counter, hhi, hlo]

/-- With equal operands two GENERATEs fail alike, or store the same digest at the same length and number of digits. -/
theorem runGenerate_agree (hinputs : generateInputs p s = generateInputs p s')
    (hhash : p.hash s.alg s.keyBytes s.message = p.hash s'.alg s'.keyBytes s'.message) :
    (∃ e, runGenerate p s = .error e ∧ runGenerate p s' = .error e) ∨
      ∃ digest len d, runGenerate p s = .ok (s.storeGenerated digest len d) ∧
        runGenerate p s' = .ok (s'.storeGenerated digest len d) := by
  rcases runGenerate_cases p s with ⟨e, hin, hrun⟩ | ⟨desc, d, c, hin, hfail, hrun⟩ | ⟨desc, d, digest, hin, hok, hrun⟩ <;>
    rw [hinputs] at hin
  · exact .inl ⟨e, hrun, runGenerate_of_inputs_error hin⟩
  · exact .inl ⟨_, hrun, runGenerate_of_hash_fail hin (hhash ▸ hfail)⟩
  · exact .inr ⟨digest, desc.L, d, hrun, runGenerate_of_hash_ok hin (hhash ▸ hok)⟩

/-- Settles O48: the checks and the call of the primitive see the operands alone. -/
theorem generateIsDeterministic : Obligations.GenerateIsDeterministic := by
  intro s s' halg hklen hkey hhi hlo hdigits
  have hhash : platform.hash s.alg s.keyBytes s.message = platform.hash s'.alg s'.keyBytes s'.message := by
    rw [halg, keyBytes_congr hklen hkey, message_congr hhi hlo]
  refine ⟨_, _, exec_eq .generate s, exec_eq .generate s', ?_⟩
  rcases runGenerate_agree (generateInputs_congr_operands halg hklen hdigits) hhash with
    ⟨e, hrun, hrun'⟩ | ⟨digest, len, d, hrun, hrun'⟩ <;> rw [runOf, runOf, hrun, hrun']
  · exact ⟨rfl, rfl, fun herr => absurd herr (errCode_ne_zero e)⟩
  · exact ⟨rfl, rfl, fun _ => ⟨rfl, rfl, rfl, rfl, rfl, rfl⟩⟩

end Sys2Proof.Proofs.GenerateResult
end

section
/-! CLEAR (44_sequencer.md R190). -/

namespace Sys2Proof.Proofs.Clear

open Sys2Proof Sys2Proof.Machine

theorem zeroise_digest_getElem (s : State) (j : Nat) (h : j < 64) : s.zeroise.digest[j] = 0 := by
  simp only [zeroise_digest, Vector.getElem_replicate]

theorem zeroise_codeByte (s : State) (j : Nat) : s.zeroise.codeByte j = 0 := by
  by_cases hj : j < 19
  · rw [Lanes.codeByte_of_lt _ hj]
    simp only [zeroise_code, Vector.getElem_replicate]
  · exact dif_neg hj

/-- Settles O50: CLEAR completes with what `zeroise` writes. -/
theorem clearZeroesData : Obligations.ClearZeroesData := by
  intro s
  exact ⟨_, exec_eq .clear s, zeroise_key_getElem s, zeroise_digest_getElem s, zeroise_codeByte s, rfl⟩

end Sys2Proof.Proofs.Clear
end

section
/-! A host program without `poll` as the accesses it makes, in order: what they leave in the block, and what they answer
(30_encoding.md R100, R105, 70_reset_and_hazards.md R252). -/

namespace Sys2Proof.Proofs.HostRun

open Sys2Proof Sys2Proof.Machine Sys2Proof.Proofs.RegisterMap

/-! ## The record of answers does not mix with the block -/

/-- The same block with another record of answers. -/
def withResponses (responses : List Response) (s : State) : State := { s with responses := responses }

theorem readReg_withResponses (s : State) (responses : List Response) (r : Reg) :
    (withResponses responses s).readReg r = s.readReg r := by
  cases r <;> rfl

theorem memRead_withResponses (s : State) (responses : List Response) (off : Offset) :
    (withResponses responses s).memRead off = s.memRead off :=
  memRead_congr fun r _ => readReg_withResponses s responses r

theorem memWrite_withResponses (s : State) (responses : List Response) (off : Offset) (v : Word) :
    (withResponses responses s).memWrite off v = withResponses responses (s.memWrite off v) := by
  have hphase : (withResponses responses s).phase = s.phase := rfl
  unfold State.memWrite
  rw [hphase]
  split_ifs
  · rfl
  · rfl
  · cases regAt off with
    | none => rfl
    | some r => cases r <;> rfl

theorem access_withResponses (s : State) (responses : List Response) (a : BusAccess) :
    (withResponses responses s).access a = (withResponses responses (s.access a).1, (s.access a).2) := by
  unfold State.access
  split
  · cases a with
    | read width off => simp only [memRead_withResponses]
    | write width off v => simp only [memWrite_withResponses]
  · rfl

theorem foldl_access_withResponses (accesses : List BusAccess) (s : State) (responses : List Response) :
    accesses.foldl (fun u a => (u.access a).1) (withResponses responses s) =
      withResponses responses (accesses.foldl (fun u a => (u.access a).1) s) := by
  induction accesses generalizing s with
  | nil => rfl
  | cons a accesses ih => rw [List.foldl_cons, access_withResponses, ih, List.foldl_cons]

/-- The host's accesses change the block as the block's own do, and the record beside it. -/
theorem foldl_hostAccess (accesses : List BusAccess) (s : State) :
    ∃ responses, accesses.foldl State.hostAccess s =
      withResponses responses (accesses.foldl (fun u a => (u.access a).1) s) := by
  induction accesses generalizing s with
  | nil => exact ⟨s.responses, rfl⟩
  | cons a accesses ih =>
    obtain ⟨responses, hrest⟩ := ih (s.hostAccess a)
    have hfirst : s.hostAccess a = withResponses ((s.access a).2 :: s.responses) (s.access a).1 := rfl
    rw [hfirst, foldl_access_withResponses] at hrest
    exact ⟨responses, hrest⟩

/-! ## Runs -/

theorem hostAccess_withInputs (s : State) (l : List Input) (a : BusAccess) :
    (s.withInputs l).hostAccess a = (s.hostAccess a).withInputs l := by
  simp only [State.hostAccess, access_withInputs]
  rfl

/-- As many steps as there are accesses make them, and leave the rest of the schedule. -/
theorem run_accesses (accesses : List BusAccess) (rest : List Input) (s : State) :
    Host.Core.run Sys2Proof.core accesses.length (s.withInputs (accesses.map .bus ++ rest)) =
      .next ((accesses.foldl State.hostAccess s).withInputs rest) := by
  induction accesses generalizing s with
  | nil => rfl
  | cons a accesses ih =>
    have hstep : step (s.withInputs ((a :: accesses).map .bus ++ rest)) =
        .next ((s.hostAccess a).withInputs (accesses.map .bus ++ rest)) :=
      (step_bus rfl).trans (congrArg _ (hostAccess_withInputs s _ a))
    rw [List.length_cons, run_succ _ hstep, ih, List.foldl_cons]

/-- An idle block with nothing left to come holds its state however long it runs. -/
theorem run_ended {s : State} (hidle : s.phase = .idle) (hinputs : s.inputs = []) (k : Nat) :
    Host.Core.run Sys2Proof.core k s = .next s := by
  induction k with
  | zero => rfl
  | succ k ih => rw [run_succ k ((step_end hinputs).trans (engineTurn_idle hidle)), ih]

/-- A host program has ended where a run of no more steps than it is given ends idle with nothing left to come. -/
theorem runLines_of_run {reads k : Nat} {lines : List AsmLine} {s t : State}
    (hwf : InputsWellFormed (assemble reads lines))
    (hrun : Host.Core.run Sys2Proof.core k (s.withInputs (assemble reads lines)) = .next t)
    (hk : k ≤ ((assemble reads lines).map Input.weight).sum + 1) (hidle : t.phase = .idle) (hinputs : t.inputs = []) :
    runLines reads lines s = .next t := by
  obtain ⟨rest, hrest⟩ := Nat.exists_eq_add_of_le hk
  have hcore : runLines reads lines s = Host.Core.run Sys2Proof.core (((assemble reads lines).map Input.weight).sum + 1)
      (s.withInputs (assemble reads lines)) := run_hostCore_eq _ (s.withInputs (assemble reads lines)) hwf
  rwa [hrest, run_add rest hrun, run_ended hidle hinputs] at hcore

theorem sum_weight_map_bus (accesses : List BusAccess) :
    ((accesses.map Input.bus).map Input.weight).sum = accesses.length := by
  induction accesses with
  | nil => rfl
  | cons a accesses ih => simp only [List.map_cons, List.sum_cons, List.length_cons, ih, Input.weight, Nat.add_comm]

theorem inputsWellFormed_map_bus {accesses : List BusAccess} (h : ∀ a ∈ accesses, a.wellFormed = true) :
    InputsWellFormed (accesses.map .bus) := by
  exact fun a ha => h a (by simpa using ha)

/-! ## Programs that read registers -/

/-- The record of the reads of these registers, the latest answer first. -/
def readAnswers (s : State) (regs : List Reg) : List Response := (regs.map fun r => .data (s.readReg r)).reverse

/-- The program that reads these registers by name. -/
def readLines (regs : List Reg) : List AsmLine := regs.map fun r => .rd (.name r)

/-- The accesses that program makes. -/
def readAccesses (regs : List Reg) : List BusAccess := regs.map fun r => .read 4 r.off

theorem assemble_readLines (reads : Nat) (regs : List Reg) :
    assemble reads (readLines regs) = (readAccesses regs).map .bus := by
  induction regs with
  | nil => rfl
  | cons r regs ih => exact congrArg (.bus (.read 4 r.off) :: ·) ih

theorem readAccesses_wellFormed (regs : List Reg) : ∀ a ∈ readAccesses regs, a.wellFormed = true := by
  simp [readAccesses, BusAccess.wellFormed, Loads.off_toNat_mod_four]

theorem foldl_hostAccess_readAccesses (regs : List Reg) (s : State) :
    (readAccesses regs).foldl State.hostAccess s = withResponses (readAnswers s regs ++ s.responses) s := by
  induction regs generalizing s with
  | nil => rfl
  | cons r regs ih =>
    have hread : s.hostAccess (.read 4 r.off) = withResponses (.data (s.readReg r) :: s.responses) s := by
      rw [State.hostAccess, access_read (Loads.off_toNat_mod_four r), memRead_of_eq_off rfl]
      rfl
    have hanswers (responses : List Response) : readAnswers (withResponses responses s) regs = readAnswers s regs :=
      congrArg List.reverse (List.map_congr_left fun r _ => congrArg _ (readReg_withResponses s responses r))
    calc
      _ = withResponses (readAnswers s regs ++ .data (s.readReg r) :: s.responses) s := by
        rw [readAccesses, List.map_cons, List.foldl_cons, hread]
        exact (ih _).trans (by rw [hanswers]; rfl)
      _ = _ := by simp [readAnswers]

/-- A program of reads leaves the block as it was, and the answers in the record. -/
theorem runLines_readLines (reads : Nat) (regs : List Reg) {s : State} (hidle : s.phase = .idle) :
    runLines reads (readLines regs) s = .next (withResponses (readAnswers s regs ++ s.responses) (s.withInputs [])) := by
  have hassemble := assemble_readLines reads regs
  have hrun := run_accesses (readAccesses regs) [] s
  rw [List.append_nil, ← hassemble, foldl_hostAccess_readAccesses] at hrun
  refine runLines_of_run ?_ hrun ?_ hidle rfl
  · rw [hassemble]
    exact inputsWellFormed_map_bus (readAccesses_wellFormed regs)
  · rw [hassemble, sum_weight_map_bus]
    exact Nat.le_succ _

theorem lastReads_readAnswers (s t : State) (regs : List Reg) (earlier : List Response) :
    (withResponses (readAnswers s regs ++ earlier) t).lastReads regs.length = regs.map s.readReg := by
  have hlen : regs.length = (readAnswers s regs).length := by simp [readAnswers]
  rw [State.lastReads, hlen, withResponses, List.take_left]
  simp [readAnswers, Response.readData]

end Sys2Proof.Proofs.HostRun
end

section
/-! What the host does after `poll`: the check of ERR and the reads of CODE (44_sequencer.md R184). -/

namespace Sys2Proof.Proofs.CodeReads

open Sys2Proof Sys2Proof.Machine Sys2Proof.Proofs.HostRun Sys2Proof.Proofs.Poll

/-! ## The bytes that words hold -/

theorem take_flatMap_laneBytes (words : List Word) (m : Nat) :
    (words.take m).flatMap laneBytes = (words.flatMap laneBytes).take (4 * m) := by
  induction words generalizing m with
  | nil => simp
  | cons v words ih =>
    cases m with
    | zero => rfl
    | succ m => simpa [laneBytes, Nat.mul_succ] using ih m

/-- The five words of CODE hold its 19 bytes and the hard-wired one. -/
theorem flatMap_laneBytes_codeWord (s : State) :
    ((List.finRange 5).map s.codeWord).flatMap laneBytes = s.code.toList ++ [0] := by
  have hbytes : ((List.finRange 5).map s.codeWord).flatMap laneBytes = (List.range 20).map s.codeByte := by
    simp only [State.codeWord, List.flatMap_map, laneBytes_wordOfLanes]
    rfl
  rw [hbytes]
  apply List.ext_getElem
  · simp
  · intro j hj _
    have hj20 : j < 20 := by simpa using hj
    rw [List.getElem_map, List.getElem_range]
    rcases Nat.lt_or_ge j 19 with hlt | hge
    · rw [Lanes.codeByte_of_lt s hlt, List.getElem_append_left (by simpa using hlt), Vector.getElem_toList]
    · obtain rfl : j = 19 := by omega
      simp [State.codeByte]

/-- As many words as hold the first len bytes of CODE do hold them. -/
theorem take_flatMap_codeWords (s : State) {len : Nat} (hlen : len ≤ 19) :
    ((((List.finRange 5).take ((len + 3) / 4)).map s.codeWord).flatMap laneBytes).take len = s.code.toList.take len := by
  rw [List.map_take, take_flatMap_laneBytes, flatMap_laneBytes_codeWord, List.take_take, Nat.min_eq_left (by omega),
    List.take_append_of_le_length (by simpa using hlen)]

/-! ## The reads -/

/-- The words that hold the first len bytes of CODE. -/
def codeRegs (len : Nat) : List Reg := ((List.finRange 5).take ((len + 3) / 4)).map .code

theorem codeWordReads_eq (len : Nat) : codeWordReads len = readLines (codeRegs len) := by
  simp only [codeWordReads, codeRegs, readLines, List.map_map]
  rfl

theorem map_readReg_codeRegs (s : State) (len : Nat) :
    (codeRegs len).map s.readReg = ((List.finRange 5).take ((len + 3) / 4)).map s.codeWord :=
  List.map_map

/-- On an idle block the reads answer the first CODE_LEN bytes of CODE. -/
theorem readCode_eq {s : State} (hidle : s.phase = .idle) (hlen : s.codeLen.toNat ≤ 19) :
    ∃ t, readCode s = .next (.code (s.code.toList.take s.codeLen.toNat), t) := by
  let t := withResponses (.data (s.codeLen.setWidth 32) :: s.responses) (s.withInputs [])
  have hfirst : runLines 0 [.rd (.name .codeLen)] s = .next t := runLines_readLines 0 [.codeLen] hidle
  have hlast : t.lastRead.toNat = s.codeLen.toNat := by
    rw [lastRead_data t _ s.responses rfl, BitVec.toNat_setWidth_of_le (by decide)]
  let regs := codeRegs s.codeLen.toNat
  have hsecond := runLines_readLines 0 regs (s := t) hidle
  refine ⟨withResponses (readAnswers t regs ++ t.responses) (t.withInputs []), ?_⟩
  have hcount : (readLines regs).length = regs.length := List.length_map _
  have hwords : regs.map t.readReg = ((List.finRange 5).take ((s.codeLen.toNat + 3) / 4)).map s.codeWord :=
    map_readReg_codeRegs t s.codeLen.toNat
  simp only [readCode, hfirst, afterRun_next, hlast, codeWordReads_eq]
  rw [hsecond, afterRun_next, hcount, lastReads_readAnswers, hwords, take_flatMap_codeWords s hlen]

/-! ## The check -/

/-- The STATUS value that `poll` ended with, that of the completed command t, carries that command's ERR and HERR. -/
theorem checkAndReadCode_failed {s t : State} (hstatus : s.lastRead = t.statusWord) (herr : t.err ≠ 0) :
    checkAndReadCode s = .next (.failed t.err t.herr, s) := by
  rw [checkAndReadCode, hstatus, statusWord_field_err, statusWord_field_herr]
  exact if_neg herr

theorem checkAndReadCode_succeeded {s t : State} (hstatus : s.lastRead = t.statusWord) (herr : t.err = 0) :
    checkAndReadCode s = readCode s := by
  rw [checkAndReadCode, hstatus, statusWord_field_err]
  exact if_pos herr

end Sys2Proof.Proofs.CodeReads
end

section
/-! `generate_custom` of 44_sequencer.md R184 as the host carries it out: the loaded block, the command, the code. -/

namespace Sys2Proof.Proofs.GenerateCustom

open Sys2Proof Sys2Proof.Machine Sys2Proof.Proofs.AlgTable Sys2Proof.Proofs.Completion Sys2Proof.Proofs.Poll
open Sys2Proof.Proofs.Loads Sys2Proof.Proofs.InputChecks Sys2Proof.Proofs.Formatter Sys2Proof.Proofs.GenerateInputs
open Sys2Proof.Proofs.GenerateResult Sys2Proof.Proofs.HostRun Sys2Proof.Proofs.CodeReads

variable {s : State} {alg : BitVec 4} {ie : Bool} {digits : Word} {secret : List Byte} {counter : BitVec 64}

/-! ## The block as the program loads it -/

/-- CTRL takes ALG and IE from the word that the host puts together for it (10_state.md R22). -/
theorem writeReg_ctrl (s : State) (alg : BitVec 4) (ie : Bool) :
    s.writeReg .ctrl ((bitWord ie <<< 8) ||| alg.setWidth 32) = { s with alg := alg, ie := ie } := by
  let t : State := { s with alg := alg, ie := ie }
  have hctrl : (bitWord ie <<< 8) ||| alg.setWidth 32 = 0#23 ++ BitVec.ofBool ie ++ 0#4 ++ alg := ctrlWord_eq_append t
  have halg : (0#23 ++ BitVec.ofBool ie ++ 0#4 ++ alg).extractLsb' 0 4 = alg := BitVec.extractLsb'_append_eq_right
  have hie : (0#23 ++ BitVec.ofBool ie ++ 0#4 ++ alg).getLsbD 8 = ie := by
    rw [BitVec.getLsbD_append, BitVec.getLsbD_append, BitVec.getLsbD_append]
    simp
  rw [hctrl]
  simp only [State.writeReg, State.writeCtrl]
  rw [halg, hie]

/-- An idle block with the operands of a GENERATE loaded. -/
def loaded (s : State) (alg : BitVec 4) (ie : Bool) (digits : Word) (secret : List Byte) (counter : BitVec 64) : State :=
  { s with alg := alg, ie := ie, digits := digits, klen := (BitVec.ofNat 32 secret.length).setWidth 8,
           key := loadWords s.key secret ((secret.length + 3) / 4), counterHi := counter.extractLsb' 32 32,
           counterLo := counter.extractLsb' 0 32 }

/-- The same block right after it has accepted GENERATE. -/
def commanded (s : State) (alg : BitVec 4) (ie : Bool) (digits : Word) (secret : List Byte) (counter : BitVec 64) :
    State :=
  (loaded s alg ie digits secret counter).accept (encode .generate)

/-- The accesses that load the operands and write CMD. -/
def loadAndCommand (alg : BitVec 4) (ie : Bool) (digits : Word) (secret : List Byte) (counter : BitVec 64) :
    List BusAccess :=
  wrAt (Reg.off .ctrl) ((bitWord ie <<< 8) ||| alg.setWidth 32) :: wrAt (Reg.off .digits) digits ::
    (ldkeyAccesses secret ++ (ldctrAccesses counter ++ [wrAt (Reg.off .cmd) (encode .generate)]))

theorem foldl_loadAndCommand (hidle : s.phase = .idle) (hlen : secret.length ≤ 128) :
    (loadAndCommand alg ie digits secret counter).foldl (fun u a => (u.access a).1) s =
      commanded s alg ie digits secret counter := by
  let s₁ : State := { s with alg := alg, ie := ie }
  let s₂ : State := { s₁ with digits := digits }
  let s₃ : State := { s₂ with klen := (BitVec.ofNat 32 secret.length).setWidth 8,
                              key := loadWords s₂.key secret ((secret.length + 3) / 4) }
  let s₄ : State := loaded s alg ie digits secret counter
  have hctrl : (s.access (wrAt (Reg.off .ctrl) ((bitWord ie <<< 8) ||| alg.setWidth 32))).1 = s₁ :=
    (access_wrAt_off (r := .ctrl) hidle nofun _).trans (writeReg_ctrl s alg ie)
  have hdigits : (s₁.access (wrAt (Reg.off .digits) digits)).1 = s₂ :=
    access_wrAt_off (r := .digits) (s := s₁) hidle nofun digits
  have hkey : (ldkeyAccesses secret).foldl (fun u a => (u.access a).1) s₂ = s₃ :=
    foldl_ldkeyAccesses (s := s₂) hidle hlen
  have hcounter : (ldctrAccesses counter).foldl (fun u a => (u.access a).1) s₃ = s₄ :=
    foldl_ldctrAccesses (s := s₃) hidle counter
  have hcmd : (s₄.access (wrAt (Reg.off .cmd) (encode .generate))).1 = s₄.accept (encode .generate) :=
    access_wrAt_off (r := .cmd) (s := s₄) hidle nofun _
  rw [loadAndCommand, List.foldl_cons, hctrl, List.foldl_cons, hdigits, List.foldl_append, hkey, List.foldl_append,
    hcounter]
  exact hcmd

theorem packedWrites_wellFormed {base : Nat} (hbase : base % 4 = 0) (bytes : List Byte) :
    ∀ a ∈ packedWrites base bytes, a.wellFormed = true := by
  intro a ha
  obtain ⟨k, _, rfl⟩ := List.mem_map.mp ha
  simp [wrAt, BusAccess.wellFormed, hbase]

theorem wrAt_off_wellFormed (r : Reg) (v : Word) : (wrAt r.off v).wellFormed = true := by
  simp [wrAt, BusAccess.wellFormed, off_toNat_mod_four]

theorem loadAndCommand_wellFormed : ∀ a ∈ loadAndCommand alg ie digits secret counter, a.wellFormed = true := by
  simp only [loadAndCommand, ldkeyAccesses, ldctrAccesses, List.forall_mem_cons, List.forall_mem_append,
    wrAt_off_wellFormed, true_and]
  exact ⟨packedWrites_wellFormed (by decide) secret, nofun, nofun⟩

theorem commanded_klen_toNat (hlen : secret.length ≤ 128) :
    (commanded s alg ie digits secret counter).klen.toNat = secret.length :=
  toNat_setWidth_ofNat (by decide) (by omega)

/-- The primitive is given the secret itself, without the padding of its last word. -/
theorem commanded_keyBytes (hlen : secret.length ≤ 128) : (commanded s alg ie digits secret counter).keyBytes = secret := by
  have hklen := commanded_klen_toNat (s := s) (alg := alg) (ie := ie) (digits := digits) (counter := counter) hlen
  apply List.ext_getElem
  · rw [State.keyBytes, List.length_take, Vector.length_toList, hklen]
    omega
  · intro j hj hj'
    simp only [State.keyBytes, List.getElem_take, Vector.getElem_toList, commanded, loaded, accept_key]
    rw [loadWords_getElem, if_pos (by omega), List.getD_eq_getElem _ _ hj']

theorem commanded_message : (commanded s alg ie digits secret counter).message = be8 counter :=
  congrArg be8 (extractLsb'_append_halves counter)

/-! ## The run of the program -/

/-- The lines of `generate_custom` for a counter. -/
def customLines (alg : BitVec 4) (ie : Bool) (digits : Word) (secret : List Byte) (counter : BitVec 64) : List AsmLine :=
  [.wr (.name .ctrl) ((bitWord ie <<< 8) ||| alg.setWidth 32), .wr (.name .digits) digits, .ldkey secret, .ldctr counter,
    .cmd .generate, .poll]

theorem generateCustomProgram_pos {step : Nat} (hstep : 1 ≤ step) (time : BitVec 64) :
    generateCustomProgram alg ie step digits secret time =
      some (customLines alg ie digits secret (BitVec.ofNat 64 (time.toNat / step))) := by
  rw [generateCustomProgram, hostCounter_pos hstep]
  rfl

theorem assemble_customLines (reads : Nat) :
    assemble reads (customLines alg ie digits secret counter) =
      (loadAndCommand alg ie digits secret counter).map .bus ++ [.poll reads] := by
  simp [assemble, customLines, expandLine, loadAndCommand, targetOff, wrAt]

/-- What a host that polled for a command has before it: the block as the command left it, with its STATUS as the latest
answer. -/
def polled (earlier : List Response) (t : State) : State :=
  { t with inputs := [], responses := .data t.statusWord :: earlier }

theorem polled_lastRead (earlier : List Response) (t : State) : (polled earlier t).lastRead = t.statusWord :=
  lastRead_data _ _ earlier rfl

/-- The program ends with the completion of GENERATE on the loaded block. -/
theorem runLines_customLines (reads : Nat) (hidle : s.phase = .idle) (hlen : secret.length ≤ 128) :
    ∃ earlier, runLines reads (customLines alg ie digits secret counter) s =
      .next (polled earlier (completed (commanded s alg ie digits secret counter))) := by
  let u := commanded s alg ie digits secret counter
  let accesses := loadAndCommand alg ie digits secret counter
  have hassemble : assemble reads (customLines alg ie digits secret counter) = accesses.map .bus ++ [.poll reads] :=
    assemble_customLines reads
  obtain ⟨responses, hload⟩ := foldl_hostAccess accesses s
  rw [foldl_loadAndCommand hidle hlen] at hload
  have haccesses := run_accesses accesses [.poll reads] s
  obtain ⟨earlier, hpoll⟩ :=
    run_poll (s := (withResponses responses u).withInputs [.poll reads]) (reads := reads) (rest := []) rfl rfl
  have hcompleted : completed ((withResponses responses u).withInputs [.poll reads]) =
      { completed u with inputs := [.poll reads], responses := responses } := completed_withModelFields u _ responses
  rw [hload, ← hassemble] at haccesses
  rw [hcompleted] at hpoll
  refine ⟨earlier, runLines_of_run ?_ ((run_add _ haccesses).trans hpoll) ?_ (completed_phase u) rfl⟩
  · rw [hassemble]
    intro a ha
    exact inputsWellFormed_map_bus loadAndCommand_wellFormed a (by simpa using ha)
  · rw [hassemble, List.map_append, List.sum_append, sum_weight_map_bus]
    exact Nat.le_succ _

/-! ## The call -/

theorem completed_commanded :
    completed (commanded s alg ie digits secret counter) =
      (commanded s alg ie digits secret counter).complete
        (runGenerate platform (commanded s alg ie digits secret counter)) := by
  have hdecode : decode (commanded s alg ie digits secret counter).lcmd = .ok .generate :=
    DecodeEncode.decode_encode .generate
  rw [completed, runLatched, hdecode]
  rfl

section

variable {reads step : Nat} {time : BitVec 64} (hstep : 1 ≤ step) (hidle : s.phase = .idle) (hlen : secret.length ≤ 128)
include hstep hidle hlen

theorem hostGenerateCustom_eq :
    ∃ earlier, hostGenerateCustom reads alg ie step digits secret time s =
      checkAndReadCode
        (polled earlier (completed (commanded s alg ie digits secret (BitVec.ofNat 64 (time.toNat / step))))) := by
  obtain ⟨earlier, hlines⟩ := runLines_customLines (alg := alg) (ie := ie) (digits := digits)
    (counter := BitVec.ofNat 64 (time.toNat / step)) reads hidle hlen
  refine ⟨earlier, ?_⟩
  simp only [hostGenerateCustom, generateCustomProgram_pos hstep, hlines, afterRun_next]

/-- A GENERATE that fails on the loaded block is reported with its ERR and HERR. -/
theorem hostGenerateCustom_of_error {e : CmdError}
    (hrun : runGenerate platform (commanded s alg ie digits secret (BitVec.ofNat 64 (time.toNat / step))) = .error e) :
    ∃ t, hostGenerateCustom reads alg ie step digits secret time s = .next (.failed e.errCode e.herrCode, t) := by
  obtain ⟨earlier, hhost⟩ := hostGenerateCustom_eq (reads := reads) (alg := alg) (ie := ie) (digits := digits)
    (time := time) hstep hidle hlen
  rw [completed_commanded, hrun, complete_error] at hhost
  exact ⟨_, hhost.trans (checkAndReadCode_failed (polled_lastRead earlier _) (errCode_ne_zero e))⟩

/-- A GENERATE that succeeds on the loaded block is answered with the code it stored. -/
theorem hostGenerateCustom_of_ok {u : State}
    (hrun : runGenerate platform (commanded s alg ie digits secret (BitVec.ofNat 64 (time.toNat / step))) = .ok u)
    (hcode : u.codeLen.toNat ≤ 19) :
    ∃ t, hostGenerateCustom reads alg ie step digits secret time s =
      .next (.code (u.code.toList.take u.codeLen.toNat), t) := by
  obtain ⟨earlier, hhost⟩ := hostGenerateCustom_eq (reads := reads) (alg := alg) (ie := ie) (digits := digits)
    (time := time) hstep hidle hlen
  rw [completed_commanded, hrun, complete_ok, checkAndReadCode_succeeded (polled_lastRead earlier _) rfl] at hhost
  obtain ⟨t, hread⟩ := readCode_eq (s := polled earlier (u.finish 0 0)) rfl hcode
  exact ⟨t, hhost.trans hread⟩

end

/-- The characters of a rendering are ASCII digits (43_modulo_formatter.md R166). -/
theorem render_chars_are_digits (s : State) (r : BitVec 64) {d : Nat} (hd : d ≤ 19) :
    ∀ b ∈ (s.render r d).code.toList.take d, 0x30 ≤ b.toNat ∧ b.toNat ≤ 0x39 := by
  intro b hb
  obtain ⟨j, hj, rfl⟩ := List.mem_iff_getElem.mp hb
  have hj' : j < d := by
    rw [List.length_take] at hj
    omega
  rw [List.getElem_take, Vector.getElem_toList, render_code_getElem, if_pos hj', digitChar_toNat r (by omega)]
  omega

/-- Settles O59: the program brings the block to the completion of GENERATE, whose code the host reads back. -/
theorem generateCustomReturnsCode : Obligations.GenerateCustomReturnsCode := by
  intro s reads step alg ie digits secret time desc hidle htable hmin hmax
  let u := commanded s alg ie digits secret (BitVec.ofNat 64 (time.toNat / step))
  have hklen : u.klen.toNat = secret.length := commanded_klen_toNat hmax
  refine ⟨?_, fun hstep hdigits => ?_, fun hstep hdlow hdhigh => ?_⟩
  · rintro rfl
    rfl
  · have hinputs : generateInputs platform u = .error .invalidDigits :=
      generateInputs_of_digits_error (s := u) htable (digitsOperand_bad hdigits)
    exact hostGenerateCustom_of_error hstep hidle hmax (runGenerate_of_inputs_error hinputs)
  · have hinputs : generateInputs platform u = .ok (desc, digits.toNat) :=
      generateInputs_of_valid (s := u) htable (by omega) (by omega) hdlow hdhigh
    have hcall : platform.hash u.alg u.keyBytes u.message =
        platform.hash alg secret (be8 (BitVec.ofNat 64 (time.toNat / step))) := by
      rw [commanded_keyBytes hmax, commanded_message]
      rfl
    cases hhash : platform.hash alg secret (be8 (BitVec.ofNat 64 (time.toNat / step))) with
    | ok digest =>
      have hcodeLen := storeGenerated_codeLen_toNat u digest desc.L hdhigh
      obtain ⟨t, hhost⟩ := hostGenerateCustom_of_ok (reads := reads) hstep hidle hmax
        (runGenerate_of_hash_ok hinputs (hcall.trans hhash)) (hcodeLen.trans_le hdhigh)
      rw [hcodeLen] at hhost
      refine ⟨_, t, hhost, _, _, _, rfl, rfl, rfl, ?_, render_chars_are_digits _ _ hdhigh, ?_⟩
      · rw [List.length_take, Vector.length_toList]
        omega
      · calc
          _ = (codeValue (truncate digest desc.L).2 digits.toNat).toNat := by
            rw [← readDecimal_render _ hdhigh (codeValue_toNat_lt _ hdhigh), render_codeLen_toNat _ _ hdhigh]
            rfl
          _ = _ := by rw [codeValue_toNat _ hdhigh, truncate, truncWindow_toNat, truncOffset_toNat]
    | fail c =>
      obtain ⟨t, hhost⟩ := hostGenerateCustom_of_error (reads := reads) hstep hidle hmax
        (runGenerate_of_hash_fail hinputs (hcall.trans hhash))
      exact ⟨_, t, hhost, rfl⟩

end Sys2Proof.Proofs.GenerateCustom
end

section
/-! The invariant of STATUS, CODE and CODE_LEN over every step (60_exceptions.md R205, R214, 10_state.md R23, R36,
43_modulo_formatter.md R166). -/

namespace Sys2Proof.Proofs.Invariant

open Sys2Proof Sys2Proof.Machine Sys2Proof.Proofs.Formatter

/-! ## CODE and CODE_LEN -/

/-- The part of the invariant that speaks of CODE and CODE_LEN: what a rendering leaves. -/
structure CodeInv (s : State) : Prop where
  codeLen_le : s.codeLen.toNat ≤ 19
  code_digits : ∀ (j : Nat) (h : j < 19), j < s.codeLen.toNat → 0x30 ≤ s.code[j].toNat ∧ s.code[j].toNat ≤ 0x39
  code_rest : ∀ (j : Nat) (h : j < 19), s.codeLen.toNat ≤ j → s.code[j] = 0

variable {s t u : State}

theorem codeInv_of_inv (h : s.Inv) : CodeInv s := ⟨h.codeLen_le, h.code_digits, h.code_rest⟩

theorem codeInv_congr (h : CodeInv s) (hcode : t.code = s.code) (hlen : t.codeLen = s.codeLen) : CodeInv t := by
  constructor <;> simp only [hcode, hlen]
  exacts [h.codeLen_le, h.code_digits, h.code_rest]

theorem digitChar_bounds (r : BitVec 64) {i : Nat} (hi : i ≤ 19) :
    0x30 ≤ (digitChar r i).toNat ∧ (digitChar r i).toNat ≤ 0x39 := by
  rw [digitChar_toNat r hi]
  omega

/-- A rendering fills CODE with d digits and zeros, whatever was in it. -/
theorem codeInv_render (s : State) (r : BitVec 64) {d : Nat} (hd : d ≤ 19) : CodeInv (s.render r d) where
  codeLen_le := (render_codeLen_toNat s r hd).trans_le hd
  code_digits j hj hlt := by
    rw [render_codeLen_toNat s r hd] at hlt
    rw [render_code_getElem, if_pos hlt]
    exact digitChar_bounds r (by omega)
  code_rest j hj hge := by
    rw [render_codeLen_toNat s r hd] at hge
    rw [render_code_getElem, if_neg (by omega)]

theorem codeInv_zeroise (s : State) : CodeInv s.zeroise where
  codeLen_le := Nat.zero_le 19
  code_digits j _ hlt := absurd hlt (Nat.not_lt_zero j)
  code_rest j hj _ := by simp only [zeroise_code, Vector.getElem_replicate]

/-- HMAC and TRUNC leave CODE alone, FORMAT and GENERATE render it, and CLEAR empties it. -/
theorem codeInv_of_runOf {i : Instr} (h : CodeInv s) (hrun : runOf i s = .ok u) : CodeInv u := by
  have hframe := runOf_frame hrun
  cases i with
  | hmac | trunc =>
    rw [hframe]
    exact codeInv_congr h rfl rfl
  | format =>
    rcases runFormat_cases s with ⟨e, hfail⟩ | ⟨d, _, _, hd, hok⟩
    · cases hrun.symm.trans hfail
    · cases hrun.symm.trans hok
      exact codeInv_render s _ hd
  | generate =>
    rcases runGenerate_cases platform s with ⟨e, _, hfail⟩ | ⟨_, _, c, _, _, hfail⟩ | ⟨desc, d, digest, hinputs, _, hok⟩
    · cases hrun.symm.trans hfail
    · cases hrun.symm.trans hfail
    · obtain ⟨_, _, _, hd, _⟩ := generateInputs_ok hinputs
      cases hrun.symm.trans hok
      exact codeInv_render _ _ hd
  | clear =>
    rw [hframe]
    exact codeInv_zeroise s

/-! ## The engine's turn -/

/-- A completion leaves an idle block, so its ERR and HERR are all that STATUS asks of it. -/
theorem inv_finish {err : BitVec 4} {herr : Byte} (hcode : CodeInv s) (herrKnown : err.toNat ≤ 8)
    (hherr : err ≠ 8 → herr = 0) : (s.finish err herr).Inv where
  busy_status := nofun
  err_known := herrKnown
  herr_hashFail := hherr
  codeLen_le := hcode.codeLen_le
  code_digits := hcode.code_digits
  code_rest := hcode.code_rest

theorem inv_failWith (hcode : CodeInv s) (e : CmdError) : (s.failWith e).Inv :=
  inv_finish hcode (errCode_le_eight e) (herrCode_of_errCode_ne e)

theorem inv_of_exec {i : Instr} (hcode : CodeInv s) (hexec : exec i s = .next t) : t.Inv := by
  rcases exec_cases hexec with ⟨e, _, rfl⟩ | ⟨u, hrun, rfl⟩
  · exact inv_failWith hcode e
  · exact inv_finish (codeInv_of_runOf hcode hrun) (Nat.zero_le 8) fun _ => rfl

theorem inv_of_engineTurn (h : s.Inv) (hturn : engineTurn s = .next t) : t.Inv := by
  rcases engineTurn_cases hturn with ⟨_, rfl⟩ | ⟨_, rfl⟩ | ⟨i, _, _, hexec⟩
  · exact h
  · exact inv_failWith (codeInv_of_inv h) .illegalCmd
  · exact inv_of_exec (codeInv_of_inv h) hexec

/-! ## The host's accesses -/

/-- The invariant looks at six fields, and lets DONE fall. -/
theorem inv_congr (h : s.Inv) (hphase : t.phase = s.phase) (hdone : s.done = false → t.done = false)
    (herr : t.err = s.err) (hherr : t.herr = s.herr) (hcodeLen : t.codeLen = s.codeLen) (hcode : t.code = s.code) :
    t.Inv := by
  obtain ⟨hcodeLen_le, hcode_digits, hcode_rest⟩ := codeInv_congr (codeInv_of_inv h) hcode hcodeLen
  refine ⟨fun hbusy => ?_, ?_, ?_, hcodeLen_le, hcode_digits, hcode_rest⟩
  · obtain ⟨hdone₀, herr₀, hherr₀⟩ := h.busy_status (hphase.symm.trans hbusy)
    exact ⟨hdone hdone₀, herr.trans herr₀, hherr.trans hherr₀⟩
  · rw [herr]
    exact h.err_known
  · rw [herr, hherr]
    exact h.herr_hashFail

theorem inv_withInputs (h : s.Inv) (l : List Input) : (s.withInputs l).Inv := inv_congr h rfl id rfl rfl rfl rfl

theorem inv_resetEvent (s : State) : s.resetEvent.Inv := inv_congr Reset.resetMeetsInvariant rfl id rfl rfl rfl rfl

theorem inv_accept (h : s.Inv) (v : Word) : (s.accept v).Inv where
  busy_status _ := ⟨rfl, rfl, rfl⟩
  err_known := Nat.zero_le 8
  herr_hashFail _ := rfl
  codeLen_le := h.codeLen_le
  code_digits := h.code_digits
  code_rest := h.code_rest

/-- Of the registers only CMD writes to the fields that the invariant looks at. -/
theorem writeReg_frame {r : Reg} (hcmd : r ≠ .cmd) (s : State) (v : Word) :
    (s.writeReg r v).phase = s.phase ∧ (s.writeReg r v).done = s.done ∧ (s.writeReg r v).err = s.err ∧
      (s.writeReg r v).herr = s.herr ∧ (s.writeReg r v).codeLen = s.codeLen ∧ (s.writeReg r v).code = s.code := by
  cases r with
  | cmd => exact absurd rfl hcmd
  | _ => simp [State.writeReg]

theorem inv_writeReg (h : s.Inv) (r : Reg) (v : Word) : (s.writeReg r v).Inv := by
  by_cases hcmd : r = .cmd
  · rw [hcmd]
    exact inv_accept h v
  · obtain ⟨hphase, hdone, herr, hherr, hcodeLen, hcode⟩ := writeReg_frame hcmd s v
    exact inv_congr h hphase hdone.trans herr hherr hcodeLen hcode

theorem inv_writeStatus (h : s.Inv) (v : Word) : (s.writeStatus v).Inv := by
  refine inv_congr h rfl (fun hdone => ?_) rfl rfl rfl rfl
  rw [writeStatus_done, hdone, Bool.false_and]

theorem inv_memWrite (h : s.Inv) (off : Offset) (v : Word) : (s.memWrite off v).Inv := by
  rcases memWrite_cases s off v with ⟨_, e⟩ | ⟨_, _, e⟩ | ⟨_, _, r, _, e⟩ | ⟨_, _, _, e⟩ <;> rw [e]
  · exact inv_writeStatus h v
  · exact inv_congr h rfl id rfl rfl rfl rfl
  · exact inv_writeReg h r v
  · exact h

theorem inv_hostAccess (h : s.Inv) (a : BusAccess) : (s.hostAccess a).Inv := by
  have haccess : (s.access a).1.Inv := by
    rcases access_cases s a with e | ⟨off, v, _, _, e⟩ <;> rw [e]
    · exact h
    · exact inv_memWrite h off v
  exact inv_congr haccess rfl id rfl rfl rfl rfl

/-- Settles O51, by the four things a step can do. -/
theorem everyStepKeepsInvariant : Obligations.EveryStepKeepsInvariant := by
  intro s t h hstep
  rcases step_cases hstep with ⟨l, hengine⟩ | ⟨l, _, rfl⟩ | ⟨a, l, _, rfl⟩ | ⟨l, rfl⟩
  · exact inv_of_engineTurn (inv_withInputs h l) hengine
  · exact inv_resetEvent _
  · exact inv_hostAccess (inv_withInputs h l) a
  · exact inv_hostAccess (inv_withInputs h l) _

end Sys2Proof.Proofs.Invariant
end

section
/-! How a command ends (60_exceptions.md R200 to R206): the engine's turn on the latched word, what a completion keeps, and
what one that ends in an error writes. -/

namespace Sys2Proof.Proofs.CommandEnd

open Sys2Proof Sys2Proof.Machine Sys2Proof.Proofs.RegisterMap Sys2Proof.Proofs.Completion

variable {s t u : State} {i : Instr} {e : CmdError} {rest : List Input}

/-! ## Acceptance and the engine's turn (R205) -/

theorem memWrite_cmd (hidle : s.phase = .idle) (v : Word) : s.memWrite 0x010 v = s.accept v :=
  memWrite_off (r := .cmd) hidle nofun v

theorem access_write_cmd (hidle : s.phase = .idle) (v : Word) : s.access (.write 4 0x010 v) = (s.accept v, .ok) := by
  rw [access_write (by decide), memWrite_cmd hidle]

/-- Settles O23: the write of CMD is `accept`. -/
theorem commandWriteIsAccepted : Obligations.CommandWriteIsAccepted := fun _ v hidle => access_write_cmd hidle v

theorem completion_of_decode (h : decode s.lcmd = .ok i) : completion s = exec i s := by
  simp only [completion, h]

/-- Settles O24: the three turns that complete a command are `completion`, each with its own rest of the schedule. -/
theorem stepRunsDecodedCommand : Obligations.StepRunsDecodedCommand := by
  intro s i hbusy hdecode
  refine ⟨fun rest hinputs => ?engine, fun hinputs => ?nothing, fun rest hinputs => ?poll⟩
  case engine =>
    rw [step_engine hinputs, engineTurn_busy (s := s.withInputs rest) hbusy]
    exact completion_of_decode (s := s.withInputs rest) hdecode
  case nothing => rw [step_end hinputs, engineTurn_busy hbusy, completion_of_decode hdecode]
  case poll =>
    rw [Poll.step_poll_zero hbusy hinputs, ← completion_eq, completion_of_decode hdecode]

theorem exists_engineTurn (s : State) : ∃ t, engineTurn s = .next t := by
  cases hphase : s.phase with
  | idle => exact ⟨s, engineTurn_idle hphase⟩
  | busy => exact ⟨completed s, (engineTurn_busy hphase).trans (completion_eq s)⟩

theorem exists_pollTurn (reads : Nat) (rest : List Input) (s : State) : ∃ t, pollTurn reads rest s = .next t := by
  unfold pollTurn
  split_ifs
  · cases reads with
    | zero => exact ⟨_, completion_eq _⟩
    | succ n => exact ⟨_, rfl⟩
  · exact ⟨_, rfl⟩

/-- Settles O26, by the next event of the schedule. -/
theorem stepAlwaysAnswersNext : Obligations.StepAlwaysAnswersNext := by
  intro s
  cases hinputs : s.inputs with
  | nil => exact step_end hinputs ▸ exists_engineTurn s
  | cons input rest =>
    cases input with
    | engine => exact step_engine hinputs ▸ exists_engineTurn (s.withInputs rest)
    | rst => exact ⟨_, step_rst hinputs⟩
    | bus a => exact ⟨_, step_bus hinputs⟩
    | poll reads => exact step_poll hinputs ▸ exists_pollTurn reads rest s

/-! ## What every completion keeps -/

/-- No command stores in CTRL, DIGITS, STATUS, LCMD or the model's own two fields (10_state.md R39). -/
theorem runOf_keeps (h : runOf i s = .ok u) :
    u.alg = s.alg ∧ u.ie = s.ie ∧ u.digits = s.digits ∧ u.wbusy = s.wbusy ∧ u.lcmd = s.lcmd ∧ u.inputs = s.inputs ∧
      u.responses = s.responses := by
  have hframe := runOf_frame h
  cases i with
  | hmac | trunc | format | generate | clear =>
    rw [hframe]
    exact ⟨rfl, rfl, rfl, rfl, rfl, rfl, rfl⟩

/-- Settles O27: both ends of a command set the bits of STATUS, and neither touches the other fields. -/
theorem completionUpdatesStatus : Obligations.CompletionUpdatesStatus := by
  intro i s
  refine ⟨_, exec_eq i s, complete_phase s _, complete_done s _, ?_⟩
  rcases complete_cases s (runOf i s) with ⟨e, _, hcomplete⟩ | ⟨u, hrun, hcomplete⟩ <;> rw [hcomplete]
  · exact ⟨herrCode_of_errCode_ne e, rfl, rfl, rfl, rfl, rfl, rfl, rfl⟩
  · obtain ⟨halg, hie, hdigits, hwbusy, hlcmd, hinputs, hresponses⟩ := runOf_keeps hrun
    exact ⟨fun _ => rfl, hwbusy, halg, hie, hdigits, hlcmd, hinputs, hresponses⟩

/-! ## Illegal words (R202) -/

theorem completed_of_decode_error {err : DecodeError} (h : decode s.lcmd = .error err) :
    completed s = s.failWith .illegalCmd := by
  simp only [completed, runLatched, h, complete_error]

/-- Settles O25: the words outside 1 to 5 are refused by the decoder. -/
theorem illegalWordCompletesWithIllegalCmd : Obligations.IllegalWordCompletesWithIllegalCmd := by
  rintro s u rest v hidle hillegal rfl
  obtain ⟨_, hrefused, _⟩ := DecodeEncode.decodeAndEncodeAgree
  obtain ⟨err, hdecode⟩ := (hrefused v).mpr hillegal
  rw [access_write_cmd hidle]
  refine ⟨rfl, rfl, ?_⟩
  rw [Poll.step_engine_busy (accept_phase s v), completed_of_decode_error (s := s.accept v) hdecode]
  rfl

/-! ## A command that ends in an error (R204) -/

/-- A nonzero ERR says that the command's rule was not carried out. -/
theorem complete_of_err_ne_zero {outcome : Except CmdError State} (h : (s.complete outcome).err ≠ 0) :
    ∃ e, outcome = .error e ∧ s.complete outcome = s.failWith e := by
  rcases complete_cases s outcome with hfail | ⟨u, _, hcomplete⟩
  · exact hfail
  · exact absurd (congrArg State.err hcomplete) h

theorem completed_of_err_ne_zero (h : (completed s).err ≠ 0) :
    completed s = { s with phase := .idle, done := true, err := (completed s).err, herr := (completed s).herr } := by
  obtain ⟨e, _, hfail⟩ := complete_of_err_ne_zero h
  rw [completed, hfail]
  rfl

theorem step_engine_completed (hbusy : s.phase = .busy) (hinputs : s.inputs = .engine :: rest) :
    step s = .next (completed (s.withInputs rest)) := by
  rw [step_engine hinputs, engineTurn_busy (s := s.withInputs rest) hbusy, completion_eq]

/-- Whatever accesses the host makes to a busy block, they touch DONE and WBUSY alone. -/
theorem foldl_access_busy (accesses : List BusAccess) (hbusy : s.phase = .busy) :
    ∃ done wbusy, accesses.foldl (fun u a => (u.access a).1) s = { s with done := done, wbusy := wbusy } := by
  induction accesses generalizing s with
  | nil => exact ⟨s.done, s.wbusy, rfl⟩
  | cons a accesses ih =>
    obtain ⟨done, wbusy, haccess⟩ := access_busy s a hbusy
    rw [List.foldl_cons, haccess]
    exact ih (s := { s with done := done, wbusy := wbusy }) hbusy

/-- The block between the acceptance of a word and its completion. -/
def inFlight (s : State) (v : Word) (done wbusy : Bool) (rest : List Input) (responses : List Response) : State :=
  { s.accept v with done := done, wbusy := wbusy, inputs := rest, responses := responses }

/-- The acceptance of a word, the host's accesses after it and its completion, run from an idle block. -/
theorem run_accept_complete (hidle : s.phase = .idle) (v : Word) (accesses : List BusAccess) (rest : List Input) :
    ∃ done wbusy responses,
      Host.Core.run Sys2Proof.core (accesses.length + 2)
          { s with inputs := .bus (.write 4 0x010 v) :: (accesses.map Input.bus ++ .engine :: rest) } =
        .next (completed (inFlight s v done wbusy rest responses)) := by
  let host := BusAccess.write 4 0x010 v :: accesses
  have haccesses := HostRun.run_accesses host (.engine :: rest) s
  obtain ⟨responses, hrecord⟩ := HostRun.foldl_hostAccess host s
  obtain ⟨done, wbusy, hbusy⟩ := foldl_access_busy accesses (accept_phase s v)
  have hblock : host.foldl (fun u a => (u.access a).1) s = { s.accept v with done := done, wbusy := wbusy } := by
    rw [List.foldl_cons, access_write_cmd hidle]
    exact hbusy
  rw [hrecord, hblock] at haccesses
  have hcomplete : step (inFlight s v done wbusy (.engine :: rest) responses) =
      .next (completed (inFlight s v done wbusy rest responses)) := step_engine_completed rfl rfl
  exact ⟨done, wbusy, responses, (run_add 1 haccesses).trans (run_succ 0 hcomplete)⟩

/-- Settles O28: the completion is that of the accepted state, but for what the accesses left in DONE, WBUSY and the record. -/
theorem failedCommandWritesOnlyStatus : Obligations.FailedCommandWritesOnlyStatus := by
  refine ⟨fun s t rest hbusy hinputs hstep herr => ?_, fun s t v accesses rest hidle hrun herr => ?_⟩
  · cases (step_engine_completed hbusy hinputs).symm.trans hstep
    exact completed_of_err_ne_zero herr
  · obtain ⟨done, wbusy, responses, hcompleted⟩ := run_accept_complete hidle v accesses rest
    cases hcompleted.symm.trans hrun
    have hstatus := completed_of_err_ne_zero herr
    rw [hstatus]
    rfl

/-! ## Retry (R206) -/

/-- The acceptance of a word leaves alone what the checks of TRUNC look at. -/
theorem runTrunc_accept_error (h : runTrunc s = .error e) (w : Word) : runTrunc (s.accept w) = .error e := by
  by_cases hbad : s.dlen.toNat = 0 ∨ 64 < s.dlen.toNat
  · cases h.symm.trans (Truncation.runTrunc_of_bad_length hbad)
    exact Truncation.runTrunc_of_bad_length (s := s.accept w) hbad
  have hlow : 1 ≤ s.dlen.toNat := by omega
  have hhigh : s.dlen.toNat ≤ 64 := by omega
  by_cases hlong : s.digest[s.dlen.toNat - 1].toNat % 16 + 4 ≤ s.dlen.toNat
  · cases h.symm.trans (Truncation.runTrunc_of_long_enough hlow hhigh hlong)
  · have hshort := Nat.not_le.mp hlong
    cases h.symm.trans (Truncation.runTrunc_of_short hlow hhigh hshort)
    exact Truncation.runTrunc_of_short (s := s.accept w) hlow hhigh hshort

/-- The error of a command is a function of its operands, which the acceptance of a word leaves alone. -/
theorem runOf_accept_error (h : runOf i s = .error e) (w : Word) : runOf i (s.accept w) = .error e := by
  cases i with
  | hmac =>
    rcases runHmac_cases platform s with ⟨e', hinputs, hrun⟩ | ⟨desc, c, hinputs, hhash, hrun⟩ | ⟨_, _, _, _, hrun⟩
    · cases h.symm.trans hrun
      exact InputChecks.runHmac_of_inputs_error (s := s.accept w) hinputs
    · cases h.symm.trans hrun
      exact HmacResult.runHmac_of_hash_fail (s := s.accept w) hinputs hhash
    · cases h.symm.trans hrun
  | trunc => exact runTrunc_accept_error h w
  | format =>
    have hdigits : digitsOperand (s.accept w) = digitsOperand s := rfl
    simp only [runOf, runFormat, hdigits] at h ⊢
    cases hoperand : digitsOperand s with
    | error e' => rwa [hoperand] at h
    | ok d =>
      rw [hoperand] at h
      cases h
  | generate =>
    rcases runGenerate_cases platform s with
      ⟨e', hinputs, hrun⟩ | ⟨desc, d, c, hinputs, hhash, hrun⟩ | ⟨_, _, _, _, _, hrun⟩
    · cases h.symm.trans hrun
      exact InputChecks.runGenerate_of_inputs_error (s := s.accept w) hinputs
    · cases h.symm.trans hrun
      exact GenerateResult.runGenerate_of_hash_fail (s := s.accept w) hinputs hhash
    · cases h.symm.trans hrun
  | clear => cases h

/-- An acceptance writes again all that a completion in error wrote. -/
theorem accept_failWith (s : State) (e : CmdError) (w : Word) : (s.failWith e).accept w = s.accept w := rfl

/-- Settles O29: the retry starts from the state that an acceptance at first would have left. -/
theorem retryRepeatsTheError : Obligations.RetryRepeatsTheError := by
  intro i s t w hexec herr
  rcases exec_cases hexec with ⟨e, hrun, rfl⟩ | ⟨u, _, rfl⟩
  · rw [memWrite_cmd (failWith_phase s e), accept_failWith, exec_eq, runOf_accept_error hrun]
    rfl
  · exact absurd rfl herr

end Sys2Proof.Proofs.CommandEnd
end

section
/-! What the host sees of an end: the interrupt line (60_exceptions.md R210), and the fault of its program on a bus error
(R207). -/

namespace Sys2Proof.Proofs.Interrupt

open Sys2Proof Sys2Proof.Machine Sys2Proof.Proofs.CommandEnd

variable {s t : State}

/-! ## The bus error -/

theorem programStep_malformed {a : BusAccess} (h : a.wellFormed = false) (rest : List Input) (s : State) :
    programStep { s with inputs := .bus a :: rest } = .fault .hostBusError := by
  simp [programStep, h]

/-- Settles O11: both forms of a malformed access fault before the step. -/
theorem hostProgramFaultsOnBusError : Obligations.HostProgramFaultsOnBusError := by
  intro s rest width off v h
  have hread : (BusAccess.read width off).wellFormed = false := by
    simpa [BusAccess.wellFormed, imp_iff_not_or] using h
  have hwrite : (BusAccess.write width off v).wellFormed = false := hread
  exact ⟨programStep_malformed hread rest s, programStep_malformed hwrite rest s⟩

/-! ## irq = STATUS.DONE AND CTRL.IE -/

theorem irq_eq_true_iff (s : State) : s.irq = true ↔ s.done = true ∧ s.ie = true := by
  rw [State.irq, Bool.and_eq_true]

theorem irq_of_done_false (h : s.done = false) : s.irq = false := by
  rw [State.irq, h, Bool.false_and]

theorem irq_of_ie_false (h : s.ie = false) : s.irq = false := by
  rw [State.irq, h, Bool.and_false]

theorem memWrite_ctrl_idle (hidle : s.phase = .idle) (v : Word) : s.memWrite 0x008 v = s.writeCtrl v :=
  RegisterMap.memWrite_off (r := .ctrl) hidle nofun v

/-! ## What sets DONE -/

theorem done_of_writeReg {r : Reg} {v : Word} (h : (s.writeReg r v).done = true) : s.done = true := by
  by_cases hcmd : r = .cmd
  · rw [hcmd] at h
    cases h
  · obtain ⟨_, hdone, _⟩ := Invariant.writeReg_frame hcmd s v
    exact hdone.symm.trans h

/-- No access of the host sets DONE. -/
theorem done_of_access {a : BusAccess} (h : (s.access a).1.done = true) : s.done = true := by
  rcases access_cases s a with e | ⟨off, v, _, _, e⟩ <;> rw [e] at h
  · exact h
  rcases memWrite_cases s off v with ⟨_, e⟩ | ⟨_, _, e⟩ | ⟨_, _, r, _, e⟩ | ⟨_, _, _, e⟩ <;> rw [e] at h
  · rw [writeStatus_done] at h
    exact Bool.and_elim_left h
  · exact h
  · exact done_of_writeReg h
  · exact h

/-- The engine's turn sets DONE by completing a command. -/
theorem done_of_engineTurn (hturn : engineTurn s = .next t) (h : t.done = true) :
    s.done = true ∨ (s.phase = .busy ∧ t.phase = .idle) := by
  rcases engineTurn_cases hturn with ⟨_, rfl⟩ | ⟨hbusy, rfl⟩ | ⟨i, hbusy, _, hexec⟩
  · exact .inl h
  · exact .inr ⟨hbusy, rfl⟩
  · exact .inr ⟨hbusy, Key.exec_phase hexec⟩

theorem done_of_step (hstep : step s = .next t) (h : t.done = true) :
    s.done = true ∨ (s.phase = .busy ∧ t.phase = .idle) := by
  rcases step_cases hstep with ⟨l, hengine⟩ | ⟨l, _, rfl⟩ | ⟨a, l, _, rfl⟩ | ⟨l, rfl⟩
  · exact done_of_engineTurn (s := s.withInputs l) hengine h
  · cases h
  · exact .inl (done_of_access (s := s.withInputs l) h)
  · exact .inl (done_of_access (s := s.withInputs l) h)

/-- Settles O31: each clause by the factor of `irq` that it changes, and the source by what a step can do. -/
theorem irqFollowsDoneAndEnable : Obligations.IrqFollowsDoneAndEnable := by
  refine ⟨irq_eq_true_iff, fun i s => ?completion, fun s v hclear => ?clear, fun s v hidle => ?accept,
    fun s v hidle hmask => ?mask, fun s v hbusy => ?busy, fun s => rfl, fun s t => done_of_step⟩
  case completion =>
    obtain ⟨t, hexec, _, hdone, _, _, _, hie, _⟩ := completionUpdatesStatus i s
    exact ⟨t, hexec, by rw [State.irq, hdone, hie, Bool.true_and]⟩
  case clear =>
    apply irq_of_done_false
    rw [memWrite_status, writeStatus_done, hclear, Bool.not_true, Bool.and_false]
  case accept =>
    rw [memWrite_cmd hidle]
    exact irq_of_done_false (accept_done s v)
  case mask =>
    rw [memWrite_ctrl_idle hidle]
    exact ⟨irq_of_ie_false hmask, rfl⟩
  case busy =>
    rw [memWrite_busy (by decide) hbusy]
    exact ⟨rfl, rfl⟩

end Sys2Proof.Proofs.Interrupt
end

section
/-! Accesses and resets while a command is in flight (70_reset_and_hazards.md R240, R241, R250): the flag of an ignored
write, the completion that no access disturbs, and the bound on the steps before it. -/

namespace Sys2Proof.Proofs.Hazards

open Sys2Proof Sys2Proof.Machine Sys2Proof.Proofs.Completion Sys2Proof.Proofs.CommandEnd

variable {s t : State}

/-! ## WBUSY (R241) -/

theorem writeReg_wbusy (s : State) (r : Reg) (v : Word) : (s.writeReg r v).wbusy = s.wbusy := by
  cases r <;> simp [State.writeReg]

/-- Of the host's accesses only a write of 1 to bit 2 of STATUS ends the flag. -/
theorem wbusy_access {a : BusAccess} (h : s.wbusy = true) :
    (s.access a).1.wbusy = true ∨ ∃ v, a = .write 4 0x00C v ∧ v.getLsbD 2 = true := by
  rcases access_cases s a with e | ⟨off, v, rfl, _, e⟩ <;> rw [e]
  · exact .inl h
  rcases memWrite_cases s off v with ⟨rfl, e⟩ | ⟨_, _, e⟩ | ⟨_, _, r, _, e⟩ | ⟨_, _, _, e⟩ <;> rw [e]
  · cases hbit : v.getLsbD 2 with
    | true => exact .inr ⟨v, rfl, hbit⟩
    | false => exact .inl (by rw [writeStatus_wbusy, h, hbit]; rfl)
  · exact .inl rfl
  · exact .inl ((writeReg_wbusy s r v).trans h)
  · exact .inl h

@[simp] theorem completed_wbusy (s : State) : (completed s).wbusy = s.wbusy := by
  rw [completed_eq_withHostSide]
  rfl

theorem engineTurn_wbusy (hturn : engineTurn s = .next t) : t.wbusy = s.wbusy := by
  cases hphase : s.phase with
  | idle =>
    cases (engineTurn_idle hphase).symm.trans hturn
    rfl
  | busy =>
    cases ((engineTurn_busy hphase).trans (completion_eq s)).symm.trans hturn
    exact completed_wbusy s

/-- Settles O19: the write by the busy branch of `memWrite`, the flag by what a step can do. -/
theorem busyWriteIsIgnoredAndFlagSticks : Obligations.BusyWriteIsIgnoredAndFlagSticks := by
  refine ⟨fun s off v hbusy haligned hoff => ?_, fun s t hflag hstep => ?_⟩
  · rw [access_write haligned, memWrite_busy hoff hbusy, State.noteBusyWrite]
  rcases step_cases hstep with ⟨l, hengine⟩ | ⟨l, hinputs, _⟩ | ⟨a, l, hinputs, rfl⟩ | ⟨l, rfl⟩
  · exact .inl ((engineTurn_wbusy hengine).trans hflag)
  · exact .inr (.inl ⟨l, hinputs⟩)
  · rcases wbusy_access (s := s.withInputs l) (a := a) hflag with hkept | ⟨v, rfl, hbit⟩
    · exact .inl hkept
    · exact .inr (.inr ⟨v, l, hinputs, hbit⟩)
  · rcases wbusy_access (s := s.withInputs l) (a := .read 4 0x00C) hflag with hkept | ⟨_, hwrite, _⟩
    · exact .inl hkept
    · cases hwrite

/-! ## The completion after the host's accesses (R240, R241) -/

/-- After accesses to a busy block the completion is that of the block before them, but for WBUSY and the record. -/
theorem run_accesses_completed (accesses : List BusAccess) (rest : List Input) (hbusy : s.phase = .busy) :
    ∃ wbusy responses,
      Host.Core.run Sys2Proof.core (accesses.length + 1) (s.withInputs (accesses.map .bus ++ .engine :: rest)) =
        .next (withHostSide true wbusy rest responses (completed s)) := by
  have haccesses := HostRun.run_accesses accesses (.engine :: rest) s
  obtain ⟨responses, hrecord⟩ := HostRun.foldl_hostAccess accesses s
  obtain ⟨done, wbusy, hblock⟩ := foldl_access_busy accesses hbusy
  rw [hrecord, hblock] at haccesses
  have hcomplete : step (withHostSide done wbusy (.engine :: rest) responses s) =
      .next (completed (withHostSide done wbusy rest responses s)) := step_engine_completed hbusy rfl
  rw [completed_withHostSide] at hcomplete
  exact ⟨wbusy, responses, (run_add 1 haccesses).trans (run_succ 0 hcomplete)⟩

/-- Settles O53: both completions are that of the same state, seen beside other values of WBUSY and the record. -/
theorem completionIgnoresHostAccesses : Obligations.CompletionIgnoresHostAccesses := by
  intro s accesses rest hbusy
  obtain ⟨wbusy, responses, hrun⟩ := run_accesses_completed accesses rest hbusy
  refine ⟨_, _, Poll.step_engine_busy hbusy rest, hrun, ?_⟩
  rw [completed_eq_withHostSide s]
  rfl

/-! ## Progress (R250) -/

theorem stepsLeft_of_cons {input : Input} {rest : List Input} (h : s.inputs = input :: rest) :
    s.stepsLeft = input.weight + (rest.map Input.weight).sum + 1 := by
  rw [State.stepsLeft, h, List.map_cons, List.sum_cons]

theorem hostAccess_phase_of_busy (a : BusAccess) (hbusy : s.phase = .busy) : (s.hostAccess a).phase = .busy := by
  obtain ⟨done, wbusy, haccess⟩ := access_busy s a hbusy
  rw [hostAccess_phase, haccess]
  exact hbusy

/-- A step of a busy block ends the command, by its completion or a reset, or uses up a part of the schedule. -/
theorem step_ends_command_or_uses_schedule (hbusy : s.phase = .busy) :
    ∃ t, step s = .next t ∧ (t.phase = .idle ∨ t.phase = .busy ∧ t.stepsLeft < s.stepsLeft) := by
  cases hinputs : s.inputs with
  | nil => exact ⟨completed s, by rw [step_end hinputs, engineTurn_busy hbusy, completion_eq], .inl (completed_phase s)⟩
  | cons input rest =>
    have hleft := stepsLeft_of_cons hinputs
    cases input with
    | engine => exact ⟨_, step_engine_completed hbusy hinputs, .inl (completed_phase _)⟩
    | rst => exact ⟨_, step_rst hinputs, .inl rfl⟩
    | bus a =>
      refine ⟨_, step_bus hinputs, .inr ⟨hostAccess_phase_of_busy a (s := s.withInputs rest) hbusy, ?_⟩⟩
      rw [State.stepsLeft, hostAccess_withInputs_inputs, hleft, Input.weight]
      omega
    | poll reads =>
      cases reads with
      | zero => exact ⟨_, Poll.step_poll_zero hbusy hinputs, .inl (completed_phase s)⟩
      | succ n =>
        refine ⟨_, Poll.step_poll_succ hbusy hinputs, .inr ⟨hbusy, ?_⟩⟩
        rw [stepsLeft_of_cons (input := .poll n) (rest := rest) rfl, hleft, Input.weight, Input.weight]
        omega

/-- Settles O54, by induction on the part of the schedule that is left. -/
theorem commandInFlightCompletes : Obligations.CommandInFlightCompletes := by
  intro s hbusy
  induction hleft : s.stepsLeft using Nat.strong_induction_on generalizing s with
  | _ left ih =>
    subst hleft
    obtain ⟨t, hstep, hidle | ⟨hstill, hless⟩⟩ := step_ends_command_or_uses_schedule hbusy
    · exact ⟨1, t, Nat.le_add_left 1 _, run_succ 0 hstep, hidle⟩
    · obtain ⟨k, u, hk, hrun, hidle⟩ := ih t.stepsLeft hless t hstill rfl
      exact ⟨k + 1, u, Nat.lt_of_le_of_lt hk hless, (run_succ k hstep).trans hrun, hidle⟩

end Sys2Proof.Proofs.Hazards
end

section
/-! The reset event in any state (70_reset_and_hazards.md R230), and the block once the host has made its last access
(R252, 60_exceptions.md R225). -/

namespace Sys2Proof.Proofs.EndedRun

open Sys2Proof Sys2Proof.Machine

variable {s t : State}

/-- Settles O8: the event is the next of the schedule. -/
theorem resetEventResetsAnyState : Obligations.ResetEventResetsAnyState := fun _ _ hinputs => step_rst hinputs

/-- An ended run stays ended as its next event goes by, if the block is idle after it. -/
theorem runEnded_of_tail (h : s.runEnded) (hinputs : t.inputs = s.inputs.tail) (hidle : t.phase = .idle) :
    t.runEnded := by
  obtain ⟨hnoAccess, _⟩ := h
  exact ⟨fun x hx => hnoAccess x (List.mem_of_mem_tail (hinputs ▸ hx)), hidle⟩

/-- Settles O56: no event, an engine's turn or a reset; the host's events are ruled out. -/
theorem endedRunHoldsState : Obligations.EndedRunHoldsState := by
  intro s hended
  have ⟨hnoAccess, hidle⟩ := hended
  cases hinputs : s.inputs with
  | nil =>
    have hstep : step s = .next s := (step_end hinputs).trans (engineTurn_idle hidle)
    exact ⟨s, hstep, hended, hinputs, rfl, fun _ => rfl, nofun⟩
  | cons input rest =>
    have hevent := hnoAccess input (hinputs ▸ List.mem_cons_self)
    have htail : s.inputs.tail = rest := by rw [hinputs, List.tail_cons]
    cases input with
    | bus a => cases hevent
    | poll reads => cases hevent
    | engine =>
      have hstep : step s = .next (s.withInputs rest) :=
        (step_engine hinputs).trans (engineTurn_idle (s := s.withInputs rest) hidle)
      exact ⟨_, hstep, runEnded_of_tail hended htail.symm hidle, rfl, rfl, fun _ => rfl, nofun⟩
    | rst =>
      exact ⟨_, step_rst hinputs, runEnded_of_tail hended htail.symm rfl, rfl, rfl, fun h => absurd rfl h, fun _ => rfl⟩

end Sys2Proof.Proofs.EndedRun
end
